-- ==== Sys2Proof/Word.lean ====
section
/-! DEFINITION. The words of the machine: bytes, 32-bit words, register numbers, interrupt levels
(spec/00_scope.md R11, R12; spec/20_memory.md R131). -/

namespace Sys2Proof

/-- One byte (20 R131). -/
abbrev Byte := BitVec 8

/-- A 32-bit register value or address: XLEN is 32 (00 R9). -/
abbrev Word := BitVec 32

/-- The number of a general register, 0 to 31 (30 R181). -/
abbrev Reg := BitVec 5

/-- A three-bit register field of a compressed instruction; it names x8 to x15 (30 R201). -/
abbrev CReg := BitVec 3

/-- An interrupt level, 0 to 255 (00 R16, 10 R85). -/
abbrev Level := BitVec 8

end Sys2Proof
end

