-- ==== Sys2Proof/Syntax.lean ====
section
/-! DEFINITION. The instructions of the E20, one constructor for each row of spec/opcode_table.json
(spec/30_encoding.md). Operands stand as the decoded values the rules speak of: offsets are byte offsets,
with the bits the encoding leaves out present and zero (checked by `Instr.wf`). -/

namespace Sys2Proof

/-- An instruction of RV32IMC as the E20 decodes it (30 R190 to R216). -/
inductive Instr where
  -- RV32I, upper immediate and jumps (40 R234, R235; 41 R273, R274)
  | lui (rd : Reg) (imm20 : BitVec 20)
  | auipc (rd : Reg) (imm20 : BitVec 20)
  | jal (rd : Reg) (offset : BitVec 21)
  | jalr (rd rs1 : Reg) (imm : BitVec 12)
  -- conditional branches (41 R275 to R280)
  | beq (rs1 rs2 : Reg) (offset : BitVec 13)
  | bne (rs1 rs2 : Reg) (offset : BitVec 13)
  | blt (rs1 rs2 : Reg) (offset : BitVec 13)
  | bge (rs1 rs2 : Reg) (offset : BitVec 13)
  | bltu (rs1 rs2 : Reg) (offset : BitVec 13)
  | bgeu (rs1 rs2 : Reg) (offset : BitVec 13)
  -- loads and stores (42 R295 to R302)
  | lb (rd rs1 : Reg) (imm : BitVec 12)
  | lh (rd rs1 : Reg) (imm : BitVec 12)
  | lw (rd rs1 : Reg) (imm : BitVec 12)
  | lbu (rd rs1 : Reg) (imm : BitVec 12)
  | lhu (rd rs1 : Reg) (imm : BitVec 12)
  | sb (rs2 rs1 : Reg) (imm : BitVec 12)
  | sh (rs2 rs1 : Reg) (imm : BitVec 12)
  | sw (rs2 rs1 : Reg) (imm : BitVec 12)
  -- register and immediate (40 R236 to R244)
  | addi (rd rs1 : Reg) (imm : BitVec 12)
  | slti (rd rs1 : Reg) (imm : BitVec 12)
  | sltiu (rd rs1 : Reg) (imm : BitVec 12)
  | xori (rd rs1 : Reg) (imm : BitVec 12)
  | ori (rd rs1 : Reg) (imm : BitVec 12)
  | andi (rd rs1 : Reg) (imm : BitVec 12)
  | slli (rd rs1 : Reg) (shamt : BitVec 5)
  | srli (rd rs1 : Reg) (shamt : BitVec 5)
  | srai (rd rs1 : Reg) (shamt : BitVec 5)
  -- register and register (40 R245 to R254)
  | add (rd rs1 rs2 : Reg)
  | sub (rd rs1 rs2 : Reg)
  | sll (rd rs1 rs2 : Reg)
  | slt (rd rs1 rs2 : Reg)
  | sltu (rd rs1 rs2 : Reg)
  | xor (rd rs1 rs2 : Reg)
  | srl (rd rs1 rs2 : Reg)
  | sra (rd rs1 rs2 : Reg)
  | or (rd rs1 rs2 : Reg)
  | and (rd rs1 rs2 : Reg)
  -- system (43 R310 to R325); the reserved fields of the fences are decoded and ignored (30 R189)
  | fence (fm pred succ : BitVec 4) (rs1 rd : Reg)
  | fenceI (imm : BitVec 12) (rs1 rd : Reg)
  | ecall
  | ebreak
  | csrrw (rd rs1 : Reg) (csr : BitVec 12)
  | csrrs (rd rs1 : Reg) (csr : BitVec 12)
  | csrrc (rd rs1 : Reg) (csr : BitVec 12)
  | csrrwi (rd : Reg) (uimm : BitVec 5) (csr : BitVec 12)
  | csrrsi (rd : Reg) (uimm : BitVec 5) (csr : BitVec 12)
  | csrrci (rd : Reg) (uimm : BitVec 5) (csr : BitVec 12)
  | mret
  | wfi
  | dret
  -- M (44 R342 to R350)
  | mul (rd rs1 rs2 : Reg)
  | mulh (rd rs1 rs2 : Reg)
  | mulhsu (rd rs1 rs2 : Reg)
  | mulhu (rd rs1 rs2 : Reg)
  | div (rd rs1 rs2 : Reg)
  | divu (rd rs1 rs2 : Reg)
  | rem (rd rs1 rs2 : Reg)
  | remu (rd rs1 rs2 : Reg)
  -- C (45 R362 to R389)
  | cIllegal
  | cAddi4spn (rd : CReg) (nzuimm : BitVec 10)
  | cLw (rd rs1 : CReg) (uimm : BitVec 7)
  | cSw (rs2 rs1 : CReg) (uimm : BitVec 7)
  | cNop (imm : BitVec 6)
  | cAddi (rd : Reg) (imm : BitVec 6)
  | cJal (offset : BitVec 12)
  | cLi (rd : Reg) (imm : BitVec 6)
  | cAddi16sp (nzimm : BitVec 10)
  | cLui (rd : Reg) (nzimm : BitVec 18)
  | cSrli (rd : CReg) (shamt : BitVec 5)
  | cSrai (rd : CReg) (shamt : BitVec 5)
  | cAndi (rd : CReg) (imm : BitVec 6)
  | cSub (rd rs2 : CReg)
  | cXor (rd rs2 : CReg)
  | cOr (rd rs2 : CReg)
  | cAnd (rd rs2 : CReg)
  | cJ (offset : BitVec 12)
  | cBeqz (rs1 : CReg) (offset : BitVec 9)
  | cBnez (rs1 : CReg) (offset : BitVec 9)
  | cSlli (rd : Reg) (shamt : BitVec 5)
  | cLwsp (rd : Reg) (uimm : BitVec 8)
  | cJr (rs1 : Reg)
  | cMv (rd rs2 : Reg)
  | cEbreak
  | cJalr (rs1 : Reg)
  | cAdd (rd rs2 : Reg)
  | cSwsp (rs2 : Reg) (uimm : BitVec 8)
  deriving DecidableEq, Repr

end Sys2Proof
end

