-- ==== Sys2Proof/WellFormed.lean ====
section
/-! DEFINITION. Which terms of `Instr` an encoding admits (spec/30_encoding.md R185, R187, R203, R204, R212;
the `constraints` of spec/opcode_table.json). -/

namespace Sys2Proof

/-- The low `k` bits of `v` are zero: `v` is a multiple of `2 ^ k`. -/
def lowZero {n : Nat} (v : BitVec n) (k : Nat) : Bool := v.extractLsb' 0 k == 0#k

/-- The operands of `i` are ones its encoding can hold: branch and jump offsets are even (30 R185, R187,
R204), scaled offsets are multiples of their scale, and the values the compressed forms reserve are not
used (30 R202, R203, R212). -/
def Instr.wf : Instr → Bool
  | .lui _ _ => true
  | .auipc _ _ => true
  | .jal _ offset => lowZero offset 1
  | .jalr _ _ _ => true
  | .beq _ _ offset => lowZero offset 1
  | .bne _ _ offset => lowZero offset 1
  | .blt _ _ offset => lowZero offset 1
  | .bge _ _ offset => lowZero offset 1
  | .bltu _ _ offset => lowZero offset 1
  | .bgeu _ _ offset => lowZero offset 1
  | .lb _ _ _ => true
  | .lh _ _ _ => true
  | .lw _ _ _ => true
  | .lbu _ _ _ => true
  | .lhu _ _ _ => true
  | .sb _ _ _ => true
  | .sh _ _ _ => true
  | .sw _ _ _ => true
  | .addi _ _ _ => true
  | .slti _ _ _ => true
  | .sltiu _ _ _ => true
  | .xori _ _ _ => true
  | .ori _ _ _ => true
  | .andi _ _ _ => true
  | .slli _ _ _ => true
  | .srli _ _ _ => true
  | .srai _ _ _ => true
  | .add _ _ _ => true
  | .sub _ _ _ => true
  | .sll _ _ _ => true
  | .slt _ _ _ => true
  | .sltu _ _ _ => true
  | .xor _ _ _ => true
  | .srl _ _ _ => true
  | .sra _ _ _ => true
  | .or _ _ _ => true
  | .and _ _ _ => true
  | .fence _ _ _ _ _ => true
  | .fenceI _ _ _ => true
  | .ecall => true
  | .ebreak => true
  | .csrrw _ _ _ => true
  | .csrrs _ _ _ => true
  | .csrrc _ _ _ => true
  | .csrrwi _ _ _ => true
  | .csrrsi _ _ _ => true
  | .csrrci _ _ _ => true
  | .mret => true
  | .wfi => true
  | .dret => true
  | .mul _ _ _ => true
  | .mulh _ _ _ => true
  | .mulhsu _ _ _ => true
  | .mulhu _ _ _ => true
  | .div _ _ _ => true
  | .divu _ _ _ => true
  | .rem _ _ _ => true
  | .remu _ _ _ => true
  | .cIllegal => true
  | .cAddi4spn _ nzuimm => lowZero nzuimm 2 && nzuimm != 0#10
  | .cLw _ _ uimm => lowZero uimm 2
  | .cSw _ _ uimm => lowZero uimm 2
  | .cNop _ => true
  | .cAddi rd _ => rd != 0#5
  | .cJal offset => lowZero offset 1
  | .cLi _ _ => true
  | .cAddi16sp nzimm => lowZero nzimm 4 && nzimm != 0#10
  | .cLui rd nzimm => lowZero nzimm 12 && nzimm != 0#18 && rd != 2#5
  | .cSrli _ _ => true
  | .cSrai _ _ => true
  | .cAndi _ _ => true
  | .cSub _ _ => true
  | .cXor _ _ => true
  | .cOr _ _ => true
  | .cAnd _ _ => true
  | .cJ offset => lowZero offset 1
  | .cBeqz _ offset => lowZero offset 1
  | .cBnez _ offset => lowZero offset 1
  | .cSlli _ _ => true
  | .cLwsp rd uimm => lowZero uimm 2 && rd != 0#5
  | .cJr rs1 => rs1 != 0#5
  | .cMv _ rs2 => rs2 != 0#5
  | .cEbreak => true
  | .cJalr rs1 => rs1 != 0#5
  | .cAdd _ rs2 => rs2 != 0#5
  | .cSwsp _ uimm => lowZero uimm 2

end Sys2Proof
end

