-- ==== Sys2Proof/Decode.lean ====
section
/-! DEFINITION. Decoding and encoding (spec/30_encoding.md; spec/opcode_table.json). `decodeBytes` is total on
any bytes and rejects by name; `encode` is written from the same tables. The step takes the
illegal-instruction exception for every rejected word (30 R210). -/

namespace Sys2Proof

/-! ## Lengths and parcels (30 R180; 20 R136) -/

/-- The bits of one instruction: a 16-bit parcel, or two of them as a 32-bit word. -/
inductive Encoded where
  | half (w : BitVec 16)
  | full (w : BitVec 32)
  deriving DecidableEq, Repr

/-- A parcel with `inst[1:0] = 0b11` begins a 32-bit instruction (30 R180). -/
def parcelIsFull (p : BitVec 16) : Bool := p.extractLsb' 0 2 == 0b11#2

/-- The bits, a 16-bit instruction zero-extended (30 R211). -/
def Encoded.bits : Encoded → Word
  | .half w => w.setWidth 32
  | .full w => w

/-- The length in bytes (30 R180). -/
def Encoded.length : Encoded → Nat
  | .half _ => 2
  | .full _ => 4

/-- The bytes in memory, the least significant first (20 R136). -/
def Encoded.bytes : Encoded → List Byte
  | .half w => [w.extractLsb' 0 8, w.extractLsb' 8 8]
  | .full w => [w.extractLsb' 0 8, w.extractLsb' 8 8, w.extractLsb' 16 8, w.extractLsb' 24 8]

/-- Why bytes are no instruction of the E20. -/
inductive DecodeError where
  /-- fewer bytes than the instruction has -/
  | truncated
  /-- a 16-bit pattern that matches no row (30 R202, R203, R212, R213, R215) -/
  | noCompressed (w : BitVec 16)
  /-- a 32-bit pattern that matches no row (30 R190 to R196, R215) -/
  | noInstruction (w : BitVec 32)
  /-- a first parcel of an instruction of 48 bits or more, taken as 32 bits with no match (30 R180) -/
  | longForm (w : BitVec 32)
  deriving DecidableEq, Repr

/-! ## Fields of a 32-bit instruction (30 R181 to R189) -/

def opcode (w : BitVec 32) : BitVec 7 := w.extractLsb' 0 7
def rdField (w : BitVec 32) : Reg := w.extractLsb' 7 5
def funct3 (w : BitVec 32) : BitVec 3 := w.extractLsb' 12 3
def rs1Field (w : BitVec 32) : Reg := w.extractLsb' 15 5
def rs2Field (w : BitVec 32) : Reg := w.extractLsb' 20 5
def funct7 (w : BitVec 32) : BitVec 7 := w.extractLsb' 25 7
/-- `inst[31:20]`: the I-immediate (30 R183) and the CSR address (30 R188). -/
def immI (w : BitVec 32) : BitVec 12 := w.extractLsb' 20 12
/-- The S-immediate (30 R184). -/
def immS (w : BitVec 32) : BitVec 12 := w.extractLsb' 25 7 ++ w.extractLsb' 7 5
/-- The B-immediate as a byte offset (30 R185). -/
def immB (w : BitVec 32) : BitVec 13 :=
  w.extractLsb' 31 1 ++ w.extractLsb' 7 1 ++ w.extractLsb' 25 6 ++ w.extractLsb' 8 4 ++ 0#1
/-- `inst[31:12]`, the upper immediate (30 R186). -/
def immU (w : BitVec 32) : BitVec 20 := w.extractLsb' 12 20
/-- The J-immediate as a byte offset (30 R187). -/
def immJ (w : BitVec 32) : BitVec 21 :=
  w.extractLsb' 31 1 ++ w.extractLsb' 12 8 ++ w.extractLsb' 20 1 ++ w.extractLsb' 21 10 ++ 0#1

/-! ## Decoding 32-bit instructions -/

/-- LOAD, 30 R191. -/
def decodeLoad (w : BitVec 32) : Option Instr :=
  if funct3 w = 0b000#3 then some (.lb (rdField w) (rs1Field w) (immI w))
  else if funct3 w = 0b001#3 then some (.lh (rdField w) (rs1Field w) (immI w))
  else if funct3 w = 0b010#3 then some (.lw (rdField w) (rs1Field w) (immI w))
  else if funct3 w = 0b100#3 then some (.lbu (rdField w) (rs1Field w) (immI w))
  else if funct3 w = 0b101#3 then some (.lhu (rdField w) (rs1Field w) (immI w))
  else none

/-- STORE, 30 R191. -/
def decodeStore (w : BitVec 32) : Option Instr :=
  if funct3 w = 0b000#3 then some (.sb (rs2Field w) (rs1Field w) (immS w))
  else if funct3 w = 0b001#3 then some (.sh (rs2Field w) (rs1Field w) (immS w))
  else if funct3 w = 0b010#3 then some (.sw (rs2Field w) (rs1Field w) (immS w))
  else none

/-- OP-IMM, 30 R192. -/
def decodeOpImm (w : BitVec 32) : Option Instr :=
  if funct3 w = 0b000#3 then some (.addi (rdField w) (rs1Field w) (immI w))
  else if funct3 w = 0b010#3 then some (.slti (rdField w) (rs1Field w) (immI w))
  else if funct3 w = 0b011#3 then some (.sltiu (rdField w) (rs1Field w) (immI w))
  else if funct3 w = 0b100#3 then some (.xori (rdField w) (rs1Field w) (immI w))
  else if funct3 w = 0b110#3 then some (.ori (rdField w) (rs1Field w) (immI w))
  else if funct3 w = 0b111#3 then some (.andi (rdField w) (rs1Field w) (immI w))
  else if funct3 w = 0b001#3 then
    if funct7 w = 0b0000000#7 then some (.slli (rdField w) (rs1Field w) (rs2Field w)) else none
  else
    if funct7 w = 0b0000000#7 then some (.srli (rdField w) (rs1Field w) (rs2Field w))
    else if funct7 w = 0b0100000#7 then some (.srai (rdField w) (rs1Field w) (rs2Field w))
    else none

/-- OP, 30 R193. -/
def decodeOp (w : BitVec 32) : Option Instr :=
  if funct7 w = 0b0000000#7 then
    if funct3 w = 0b000#3 then some (.add (rdField w) (rs1Field w) (rs2Field w))
    else if funct3 w = 0b001#3 then some (.sll (rdField w) (rs1Field w) (rs2Field w))
    else if funct3 w = 0b010#3 then some (.slt (rdField w) (rs1Field w) (rs2Field w))
    else if funct3 w = 0b011#3 then some (.sltu (rdField w) (rs1Field w) (rs2Field w))
    else if funct3 w = 0b100#3 then some (.xor (rdField w) (rs1Field w) (rs2Field w))
    else if funct3 w = 0b101#3 then some (.srl (rdField w) (rs1Field w) (rs2Field w))
    else if funct3 w = 0b110#3 then some (.or (rdField w) (rs1Field w) (rs2Field w))
    else some (.and (rdField w) (rs1Field w) (rs2Field w))
  else if funct7 w = 0b0100000#7 then
    if funct3 w = 0b000#3 then some (.sub (rdField w) (rs1Field w) (rs2Field w))
    else if funct3 w = 0b101#3 then some (.sra (rdField w) (rs1Field w) (rs2Field w))
    else none
  else if funct7 w = 0b0000001#7 then
    if funct3 w = 0b000#3 then some (.mul (rdField w) (rs1Field w) (rs2Field w))
    else if funct3 w = 0b001#3 then some (.mulh (rdField w) (rs1Field w) (rs2Field w))
    else if funct3 w = 0b010#3 then some (.mulhsu (rdField w) (rs1Field w) (rs2Field w))
    else if funct3 w = 0b011#3 then some (.mulhu (rdField w) (rs1Field w) (rs2Field w))
    else if funct3 w = 0b100#3 then some (.div (rdField w) (rs1Field w) (rs2Field w))
    else if funct3 w = 0b101#3 then some (.divu (rdField w) (rs1Field w) (rs2Field w))
    else if funct3 w = 0b110#3 then some (.rem (rdField w) (rs1Field w) (rs2Field w))
    else some (.remu (rdField w) (rs1Field w) (rs2Field w))
  else none

/-- BRANCH, 30 R194. -/
def decodeBranch (w : BitVec 32) : Option Instr :=
  if funct3 w = 0b000#3 then some (.beq (rs1Field w) (rs2Field w) (immB w))
  else if funct3 w = 0b001#3 then some (.bne (rs1Field w) (rs2Field w) (immB w))
  else if funct3 w = 0b100#3 then some (.blt (rs1Field w) (rs2Field w) (immB w))
  else if funct3 w = 0b101#3 then some (.bge (rs1Field w) (rs2Field w) (immB w))
  else if funct3 w = 0b110#3 then some (.bltu (rs1Field w) (rs2Field w) (immB w))
  else if funct3 w = 0b111#3 then some (.bgeu (rs1Field w) (rs2Field w) (immB w))
  else none

/-- MISC-MEM, 30 R195: only `funct3` counts, the other fields are ignored (30 R189). -/
def decodeMiscMem (w : BitVec 32) : Option Instr :=
  if funct3 w = 0b000#3 then
    some (.fence (w.extractLsb' 28 4) (w.extractLsb' 24 4) (w.extractLsb' 20 4) (rs1Field w) (rdField w))
  else if funct3 w = 0b001#3 then some (.fenceI (immI w) (rs1Field w) (rdField w))
  else none

/-- SYSTEM, 30 R196: with `funct3` = 000 the whole word is fixed. -/
def decodeSystem (w : BitVec 32) : Option Instr :=
  if funct3 w = 0b001#3 then some (.csrrw (rdField w) (rs1Field w) (immI w))
  else if funct3 w = 0b010#3 then some (.csrrs (rdField w) (rs1Field w) (immI w))
  else if funct3 w = 0b011#3 then some (.csrrc (rdField w) (rs1Field w) (immI w))
  else if funct3 w = 0b101#3 then some (.csrrwi (rdField w) (rs1Field w) (immI w))
  else if funct3 w = 0b110#3 then some (.csrrsi (rdField w) (rs1Field w) (immI w))
  else if funct3 w = 0b111#3 then some (.csrrci (rdField w) (rs1Field w) (immI w))
  else if w = 0x00000073#32 then some .ecall
  else if w = 0x00100073#32 then some .ebreak
  else if w = 0x30200073#32 then some .mret
  else if w = 0x10500073#32 then some .wfi
  else if w = 0x7B200073#32 then some .dret
  else none

/-- The row of a 32-bit word by its major opcode, 30 R190. -/
def match32 (w : BitVec 32) : Option Instr :=
  if opcode w = 0b0110111#7 then some (.lui (rdField w) (immU w))
  else if opcode w = 0b0010111#7 then some (.auipc (rdField w) (immU w))
  else if opcode w = 0b1101111#7 then some (.jal (rdField w) (immJ w))
  else if opcode w = 0b1100111#7 then
    if funct3 w = 0b000#3 then some (.jalr (rdField w) (rs1Field w) (immI w)) else none
  else if opcode w = 0b1100011#7 then decodeBranch w
  else if opcode w = 0b0000011#7 then decodeLoad w
  else if opcode w = 0b0100011#7 then decodeStore w
  else if opcode w = 0b0010011#7 then decodeOpImm w
  else if opcode w = 0b0110011#7 then decodeOp w
  else if opcode w = 0b0001111#7 then decodeMiscMem w
  else if opcode w = 0b1110011#7 then decodeSystem w
  else none

/-- Decoding a 32-bit word, total (30 R210). -/
def decode32 (w : BitVec 32) : Except DecodeError Instr :=
  match match32 w with
  | some i => .ok i
  | none => if w.extractLsb' 0 5 = 0b11111#5 then .error (.longForm w) else .error (.noInstruction w)

/-! ## Fields of a 16-bit instruction (30 R200, R201, R204) -/

/-- `inst[11:7]`. -/
def crd (w : BitVec 16) : Reg := w.extractLsb' 7 5
/-- `inst[6:2]`. -/
def crs2 (w : BitVec 16) : Reg := w.extractLsb' 2 5
/-- `inst[4:2]`. -/
def cregLow (w : BitVec 16) : CReg := w.extractLsb' 2 3
/-- `inst[9:7]`. -/
def cregHigh (w : BitVec 16) : CReg := w.extractLsb' 7 3
/-- The immediate of C.ADDI, C.LI, C.ANDI. -/
def cimm6 (w : BitVec 16) : BitVec 6 := w.extractLsb' 12 1 ++ w.extractLsb' 2 5
/-- The immediate of C.ADDI4SPN. -/
def cimmAddi4spn (w : BitVec 16) : BitVec 10 :=
  w.extractLsb' 7 4 ++ w.extractLsb' 11 2 ++ w.extractLsb' 5 1 ++ w.extractLsb' 6 1 ++ 0#2
/-- The immediate of C.LW and C.SW. -/
def cimmLw (w : BitVec 16) : BitVec 7 :=
  w.extractLsb' 5 1 ++ w.extractLsb' 10 3 ++ w.extractLsb' 6 1 ++ 0#2
/-- The immediate of C.ADDI16SP. -/
def cimmAddi16sp (w : BitVec 16) : BitVec 10 :=
  w.extractLsb' 12 1 ++ w.extractLsb' 3 2 ++ w.extractLsb' 5 1 ++ w.extractLsb' 2 1 ++ w.extractLsb' 6 1 ++ 0#4
/-- The immediate of C.LUI, bits 17 to 0. -/
def cimmLui (w : BitVec 16) : BitVec 18 := w.extractLsb' 12 1 ++ w.extractLsb' 2 5 ++ 0#12
/-- The offset of C.J and C.JAL. -/
def cimmJ (w : BitVec 16) : BitVec 12 :=
  w.extractLsb' 12 1 ++ w.extractLsb' 8 1 ++ w.extractLsb' 9 2 ++ w.extractLsb' 6 1 ++ w.extractLsb' 7 1
    ++ w.extractLsb' 2 1 ++ w.extractLsb' 11 1 ++ w.extractLsb' 3 3 ++ 0#1
/-- The offset of C.BEQZ and C.BNEZ. -/
def cimmB (w : BitVec 16) : BitVec 9 :=
  w.extractLsb' 12 1 ++ w.extractLsb' 5 2 ++ w.extractLsb' 2 1 ++ w.extractLsb' 10 2 ++ w.extractLsb' 3 2 ++ 0#1
/-- The immediate of C.LWSP. -/
def cimmLwsp (w : BitVec 16) : BitVec 8 :=
  w.extractLsb' 2 2 ++ w.extractLsb' 12 1 ++ w.extractLsb' 4 3 ++ 0#2
/-- The immediate of C.SWSP. -/
def cimmSwsp (w : BitVec 16) : BitVec 8 :=
  w.extractLsb' 7 2 ++ w.extractLsb' 9 4 ++ 0#2

/-! ## Decoding 16-bit instructions (30 R202, R203) -/

/-- Quadrant 00. -/
def decodeQ0 (w : BitVec 16) : Option Instr :=
  let f := w.extractLsb' 13 3
  if w = 0x0000#16 then some .cIllegal
  else if f = 0b000#3 then
    if w.extractLsb' 5 8 = 0#8 then none else some (.cAddi4spn (cregLow w) (cimmAddi4spn w))
  else if f = 0b010#3 then some (.cLw (cregLow w) (cregHigh w) (cimmLw w))
  else if f = 0b110#3 then some (.cSw (cregLow w) (cregHigh w) (cimmLw w))
  else none

/-- Quadrant 01, `funct3` = 100 (30 R203). -/
def decodeQ1Alu (w : BitVec 16) : Option Instr :=
  let g := w.extractLsb' 10 2
  let h := w.extractLsb' 5 2
  if g = 0b00#2 then
    if w.extractLsb' 12 1 = 0#1 then some (.cSrli (cregHigh w) (crs2 w)) else none
  else if g = 0b01#2 then
    if w.extractLsb' 12 1 = 0#1 then some (.cSrai (cregHigh w) (crs2 w)) else none
  else if g = 0b10#2 then some (.cAndi (cregHigh w) (cimm6 w))
  else if w.extractLsb' 12 1 = 0#1 then
    if h = 0b00#2 then some (.cSub (cregHigh w) (cregLow w))
    else if h = 0b01#2 then some (.cXor (cregHigh w) (cregLow w))
    else if h = 0b10#2 then some (.cOr (cregHigh w) (cregLow w))
    else some (.cAnd (cregHigh w) (cregLow w))
  else none

/-- Quadrant 01. -/
def decodeQ1 (w : BitVec 16) : Option Instr :=
  let f := w.extractLsb' 13 3
  if f = 0b000#3 then
    if crd w = 0#5 then some (.cNop (cimm6 w)) else some (.cAddi (crd w) (cimm6 w))
  else if f = 0b001#3 then some (.cJal (cimmJ w))
  else if f = 0b010#3 then some (.cLi (crd w) (cimm6 w))
  else if f = 0b011#3 then
    if cimm6 w = 0#6 then none
    else if crd w = 2#5 then some (.cAddi16sp (cimmAddi16sp w))
    else some (.cLui (crd w) (cimmLui w))
  else if f = 0b100#3 then decodeQ1Alu w
  else if f = 0b101#3 then some (.cJ (cimmJ w))
  else if f = 0b110#3 then some (.cBeqz (cregHigh w) (cimmB w))
  else some (.cBnez (cregHigh w) (cimmB w))

/-- Quadrant 10. -/
def decodeQ2 (w : BitVec 16) : Option Instr :=
  let f := w.extractLsb' 13 3
  if f = 0b000#3 then
    if w.extractLsb' 12 1 = 0#1 then some (.cSlli (crd w) (crs2 w)) else none
  else if f = 0b010#3 then
    if crd w = 0#5 then none else some (.cLwsp (crd w) (cimmLwsp w))
  else if f = 0b100#3 then
    if w.extractLsb' 12 1 = 0#1 then
      if crs2 w = 0#5 then
        if crd w = 0#5 then none else some (.cJr (crd w))
      else some (.cMv (crd w) (crs2 w))
    else if crs2 w = 0#5 then
      if crd w = 0#5 then some .cEbreak else some (.cJalr (crd w))
    else some (.cAdd (crd w) (crs2 w))
  else if f = 0b110#3 then some (.cSwsp (crs2 w) (cimmSwsp w))
  else none

/-- The row of a 16-bit word by its quadrant, 30 R202. -/
def match16 (w : BitVec 16) : Option Instr :=
  if w.extractLsb' 0 2 = 0b00#2 then decodeQ0 w
  else if w.extractLsb' 0 2 = 0b01#2 then decodeQ1 w
  else if w.extractLsb' 0 2 = 0b10#2 then decodeQ2 w
  else none

/-- Decoding a 16-bit word, total (30 R210). -/
def decode16 (w : BitVec 16) : Except DecodeError Instr :=
  match match16 w with
  | some i => .ok i
  | none => .error (.noCompressed w)

/-- The instruction that the bits of one instruction stand for. -/
def decode : Encoded → Except DecodeError Instr
  | .half w => decode16 w
  | .full w => decode32 w

/-- The instruction at the head of a list of bytes, as the hardware stores it, and the bytes after it
(20 R136, 30 R180). -/
def decodeBytes : List Byte → Except DecodeError (Instr × List Byte)
  | b0 :: b1 :: rest =>
    if parcelIsFull (b1 ++ b0) then
      match rest with
      | b2 :: b3 :: rest' =>
        match decode32 (b3 ++ b2 ++ b1 ++ b0) with
        | .ok i => .ok (i, rest')
        | .error e => .error e
      | _ => .error .truncated
    else
      match decode16 (b1 ++ b0) with
      | .ok i => .ok (i, rest)
      | .error e => .error e
  | _ => .error .truncated

/-! ## Encoding 32-bit instructions (30 R181) -/

def encR (f7 : BitVec 7) (rs2 rs1 : Reg) (f3 : BitVec 3) (rd : Reg) (op : BitVec 7) : Encoded :=
  .full (f7 ++ rs2 ++ rs1 ++ f3 ++ rd ++ op)
def encI (imm : BitVec 12) (rs1 : Reg) (f3 : BitVec 3) (rd : Reg) (op : BitVec 7) : Encoded :=
  .full (imm ++ rs1 ++ f3 ++ rd ++ op)
def encS (imm : BitVec 12) (rs2 rs1 : Reg) (f3 : BitVec 3) (op : BitVec 7) : Encoded :=
  .full (imm.extractLsb' 5 7 ++ rs2 ++ rs1 ++ f3 ++ imm.extractLsb' 0 5 ++ op)
def encB (imm : BitVec 13) (rs2 rs1 : Reg) (f3 : BitVec 3) : Encoded :=
  .full (imm.extractLsb' 12 1 ++ imm.extractLsb' 5 6 ++ rs2 ++ rs1 ++ f3 ++ imm.extractLsb' 1 4
    ++ imm.extractLsb' 11 1 ++ 0b1100011#7)
def encU (imm : BitVec 20) (rd : Reg) (op : BitVec 7) : Encoded := .full (imm ++ rd ++ op)
def encJ (imm : BitVec 21) (rd : Reg) : Encoded :=
  .full (imm.extractLsb' 20 1 ++ imm.extractLsb' 1 10 ++ imm.extractLsb' 11 1 ++ imm.extractLsb' 12 8 ++ rd
    ++ 0b1101111#7)
/-- A load (30 R191). -/
def encLoad (imm : BitVec 12) (rs1 : Reg) (f3 : BitVec 3) (rd : Reg) : Encoded := encI imm rs1 f3 rd 0b0000011#7
/-- OP-IMM (30 R192). -/
def encOpImm (imm : BitVec 12) (rs1 : Reg) (f3 : BitVec 3) (rd : Reg) : Encoded := encI imm rs1 f3 rd 0b0010011#7
/-- OP (30 R193). -/
def encOp (f7 : BitVec 7) (rs2 rs1 : Reg) (f3 : BitVec 3) (rd : Reg) : Encoded := encR f7 rs2 rs1 f3 rd 0b0110011#7
/-- SYSTEM, the CSR forms (30 R196). -/
def encCsr (csr : BitVec 12) (src : BitVec 5) (f3 : BitVec 3) (rd : Reg) : Encoded :=
  encI csr src f3 rd 0b1110011#7

/-! ## Encoding 16-bit instructions (30 R200 to R204) -/

/-- The CI format: funct3, one bit, five bits, five bits, quadrant. -/
def encCI (f3 : BitVec 3) (b12 : BitVec 1) (rd low : BitVec 5) (op : BitVec 2) : Encoded :=
  .half (f3 ++ b12 ++ rd ++ low ++ op)
/-- A six-bit immediate in the CI format. -/
def encCImm (f3 : BitVec 3) (imm : BitVec 6) (rd : Reg) (op : BitVec 2) : Encoded :=
  encCI f3 (imm.extractLsb' 5 1) rd (imm.extractLsb' 0 5) op
/-- The CR format. -/
def encCR (f4 : BitVec 4) (rd rs2 : Reg) : Encoded := .half (f4 ++ rd ++ rs2 ++ 0b10#2)
/-- The arithmetic format CA. -/
def encCA (rd : CReg) (g : BitVec 2) (rs2 : CReg) : Encoded := .half (0b100011#6 ++ rd ++ g ++ rs2 ++ 0b01#2)
/-- C.SRLI, C.SRAI, C.ANDI. -/
def encCShift (b12 : BitVec 1) (g : BitVec 2) (rd : CReg) (low : BitVec 5) : Encoded :=
  .half (0b100#3 ++ b12 ++ g ++ rd ++ low ++ 0b01#2)
/-- The CL and CS formats. -/
def encCL (f3 : BitVec 3) (uimm : BitVec 7) (rs1 r : CReg) : Encoded :=
  .half (f3 ++ uimm.extractLsb' 3 3 ++ rs1 ++ uimm.extractLsb' 2 1 ++ uimm.extractLsb' 6 1 ++ r ++ 0b00#2)
/-- The CJ format. -/
def encCJ (f3 : BitVec 3) (o : BitVec 12) : Encoded :=
  .half (f3 ++ o.extractLsb' 11 1 ++ o.extractLsb' 4 1 ++ o.extractLsb' 8 2 ++ o.extractLsb' 10 1
    ++ o.extractLsb' 6 1 ++ o.extractLsb' 7 1 ++ o.extractLsb' 1 3 ++ o.extractLsb' 5 1 ++ 0b01#2)
/-- The CB format. -/
def encCB (f3 : BitVec 3) (rs1 : CReg) (o : BitVec 9) : Encoded :=
  .half (f3 ++ o.extractLsb' 8 1 ++ o.extractLsb' 3 2 ++ rs1 ++ o.extractLsb' 6 2 ++ o.extractLsb' 1 2
    ++ o.extractLsb' 5 1 ++ 0b01#2)

/-- The words of a well-formed instruction (30 R181 to R205). -/
def encode : Instr → Encoded
  | .lui rd imm => encU imm rd 0b0110111#7
  | .auipc rd imm => encU imm rd 0b0010111#7
  | .jal rd o => encJ o rd
  | .jalr rd rs1 imm => encI imm rs1 0b000#3 rd 0b1100111#7
  | .beq rs1 rs2 o => encB o rs2 rs1 0b000#3
  | .bne rs1 rs2 o => encB o rs2 rs1 0b001#3
  | .blt rs1 rs2 o => encB o rs2 rs1 0b100#3
  | .bge rs1 rs2 o => encB o rs2 rs1 0b101#3
  | .bltu rs1 rs2 o => encB o rs2 rs1 0b110#3
  | .bgeu rs1 rs2 o => encB o rs2 rs1 0b111#3
  | .lb rd rs1 imm => encLoad imm rs1 0b000#3 rd
  | .lh rd rs1 imm => encLoad imm rs1 0b001#3 rd
  | .lw rd rs1 imm => encLoad imm rs1 0b010#3 rd
  | .lbu rd rs1 imm => encLoad imm rs1 0b100#3 rd
  | .lhu rd rs1 imm => encLoad imm rs1 0b101#3 rd
  | .sb rs2 rs1 imm => encS imm rs2 rs1 0b000#3 0b0100011#7
  | .sh rs2 rs1 imm => encS imm rs2 rs1 0b001#3 0b0100011#7
  | .sw rs2 rs1 imm => encS imm rs2 rs1 0b010#3 0b0100011#7
  | .addi rd rs1 imm => encOpImm imm rs1 0b000#3 rd
  | .slti rd rs1 imm => encOpImm imm rs1 0b010#3 rd
  | .sltiu rd rs1 imm => encOpImm imm rs1 0b011#3 rd
  | .xori rd rs1 imm => encOpImm imm rs1 0b100#3 rd
  | .ori rd rs1 imm => encOpImm imm rs1 0b110#3 rd
  | .andi rd rs1 imm => encOpImm imm rs1 0b111#3 rd
  | .slli rd rs1 sh => encR 0b0000000#7 sh rs1 0b001#3 rd 0b0010011#7
  | .srli rd rs1 sh => encR 0b0000000#7 sh rs1 0b101#3 rd 0b0010011#7
  | .srai rd rs1 sh => encR 0b0100000#7 sh rs1 0b101#3 rd 0b0010011#7
  | .add rd rs1 rs2 => encOp 0b0000000#7 rs2 rs1 0b000#3 rd
  | .sub rd rs1 rs2 => encOp 0b0100000#7 rs2 rs1 0b000#3 rd
  | .sll rd rs1 rs2 => encOp 0b0000000#7 rs2 rs1 0b001#3 rd
  | .slt rd rs1 rs2 => encOp 0b0000000#7 rs2 rs1 0b010#3 rd
  | .sltu rd rs1 rs2 => encOp 0b0000000#7 rs2 rs1 0b011#3 rd
  | .xor rd rs1 rs2 => encOp 0b0000000#7 rs2 rs1 0b100#3 rd
  | .srl rd rs1 rs2 => encOp 0b0000000#7 rs2 rs1 0b101#3 rd
  | .sra rd rs1 rs2 => encOp 0b0100000#7 rs2 rs1 0b101#3 rd
  | .or rd rs1 rs2 => encOp 0b0000000#7 rs2 rs1 0b110#3 rd
  | .and rd rs1 rs2 => encOp 0b0000000#7 rs2 rs1 0b111#3 rd
  | .fence fm p q rs1 rd => .full (fm ++ p ++ q ++ rs1 ++ 0b000#3 ++ rd ++ 0b0001111#7)
  | .fenceI imm rs1 rd => encI imm rs1 0b001#3 rd 0b0001111#7
  | .ecall => .full 0x00000073#32
  | .ebreak => .full 0x00100073#32
  | .csrrw rd rs1 csr => encCsr csr rs1 0b001#3 rd
  | .csrrs rd rs1 csr => encCsr csr rs1 0b010#3 rd
  | .csrrc rd rs1 csr => encCsr csr rs1 0b011#3 rd
  | .csrrwi rd uimm csr => encCsr csr uimm 0b101#3 rd
  | .csrrsi rd uimm csr => encCsr csr uimm 0b110#3 rd
  | .csrrci rd uimm csr => encCsr csr uimm 0b111#3 rd
  | .mret => .full 0x30200073#32
  | .wfi => .full 0x10500073#32
  | .dret => .full 0x7B200073#32
  | .mul rd rs1 rs2 => encOp 0b0000001#7 rs2 rs1 0b000#3 rd
  | .mulh rd rs1 rs2 => encOp 0b0000001#7 rs2 rs1 0b001#3 rd
  | .mulhsu rd rs1 rs2 => encOp 0b0000001#7 rs2 rs1 0b010#3 rd
  | .mulhu rd rs1 rs2 => encOp 0b0000001#7 rs2 rs1 0b011#3 rd
  | .div rd rs1 rs2 => encOp 0b0000001#7 rs2 rs1 0b100#3 rd
  | .divu rd rs1 rs2 => encOp 0b0000001#7 rs2 rs1 0b101#3 rd
  | .rem rd rs1 rs2 => encOp 0b0000001#7 rs2 rs1 0b110#3 rd
  | .remu rd rs1 rs2 => encOp 0b0000001#7 rs2 rs1 0b111#3 rd
  | .cIllegal => .half 0x0000#16
  | .cAddi4spn rd u =>
    .half (0b000#3 ++ u.extractLsb' 4 2 ++ u.extractLsb' 6 4 ++ u.extractLsb' 2 1 ++ u.extractLsb' 3 1 ++ rd
      ++ 0b00#2)
  | .cLw rd rs1 u => encCL 0b010#3 u rs1 rd
  | .cSw rs2 rs1 u => encCL 0b110#3 u rs1 rs2
  | .cNop imm => encCImm 0b000#3 imm 0#5 0b01#2
  | .cAddi rd imm => encCImm 0b000#3 imm rd 0b01#2
  | .cJal o => encCJ 0b001#3 o
  | .cLi rd imm => encCImm 0b010#3 imm rd 0b01#2
  | .cAddi16sp v =>
    encCI 0b011#3 (v.extractLsb' 9 1) 2#5
      (v.extractLsb' 4 1 ++ v.extractLsb' 6 1 ++ v.extractLsb' 7 2 ++ v.extractLsb' 5 1) 0b01#2
  | .cLui rd v => encCI 0b011#3 (v.extractLsb' 17 1) rd (v.extractLsb' 12 5) 0b01#2
  | .cSrli rd sh => encCShift 0#1 0b00#2 rd sh
  | .cSrai rd sh => encCShift 0#1 0b01#2 rd sh
  | .cAndi rd imm => encCShift (imm.extractLsb' 5 1) 0b10#2 rd (imm.extractLsb' 0 5)
  | .cSub rd rs2 => encCA rd 0b00#2 rs2
  | .cXor rd rs2 => encCA rd 0b01#2 rs2
  | .cOr rd rs2 => encCA rd 0b10#2 rs2
  | .cAnd rd rs2 => encCA rd 0b11#2 rs2
  | .cJ o => encCJ 0b101#3 o
  | .cBeqz rs1 o => encCB 0b110#3 rs1 o
  | .cBnez rs1 o => encCB 0b111#3 rs1 o
  | .cSlli rd sh => encCI 0b000#3 0#1 rd sh 0b10#2
  | .cLwsp rd u => encCI 0b010#3 (u.extractLsb' 5 1) rd (u.extractLsb' 2 3 ++ u.extractLsb' 6 2) 0b10#2
  | .cJr rs1 => encCR 0b1000#4 rs1 0#5
  | .cMv rd rs2 => encCR 0b1000#4 rd rs2
  | .cEbreak => .half 0x9002#16
  | .cJalr rs1 => encCR 0b1001#4 rs1 0#5
  | .cAdd rd rs2 => encCR 0b1001#4 rd rs2
  | .cSwsp rs2 u =>
    .half (0b110#3 ++ u.extractLsb' 2 4 ++ u.extractLsb' 6 2 ++ rs2 ++ 0b10#2)

/-! ## One word of the opcode table -/

/-- The low four bytes of a number, the least significant first. -/
def wordBytes (w : Nat) : List Byte :=
  [BitVec.ofNat 8 w, BitVec.ofNat 8 (w >>> 8), BitVec.ofNat 8 (w >>> 16), BitVec.ofNat 8 (w >>> 24)]

/-- The instruction the decoder reads from the `nbits` bits of `w`, laid out in memory as the hardware stores
them with zeros above (spec/opcode_table.json numbers bit 0 as the least significant bit of the first parcel). -/
def decodeTableWord (nbits w : Nat) : Option Instr :=
  match decodeBytes (wordBytes (w % 2 ^ nbits)) with
  | .ok (i, _) => some i
  | .error _ => none

end Sys2Proof
end

