-- ==== Sys2Proof/Config.lean ====
section
/-! DEFINITION. What an implementation of the E20 fixes and the spec states no value for (the other parameters of
spec/00_scope.md R10 are `Machine.Params`), and the free values: opaque constants with no body, so that no proof can
see what they are.  A free value that may differ from one moment to the next takes the number of the instruction
boundary (`State.boundary`) as its argument. -/

namespace Sys2Proof.Config

/-! ## Parameters with no stated value -/

/-- MVENDORID (10 R64). -/
opaque mvendorid : Word
/-- MARCHID (10 R64). -/
opaque marchid : Word
/-- MIMPID (10 R64). -/
opaque mimpid : Word

/-- TVAL_ILLEGAL: does `mtval` receive the instruction bits (else 0) on an illegal instruction (30 R211)? -/
opaque tvalIllegalBits : Bool
/-- TVAL_EBREAK: does `mtval` receive the pc (else 0) on EBREAK (43 R313)? -/
opaque tvalEbreakPc : Bool
/-- SHV_BIT_IN_PRIORITY (61 R521). -/
opaque shvBitInPriority : Bool
/-- Does the WARL bit `mcontrol.U` hold what is written, or read 0 (62 R552)? -/
opaque mcontrolKeepsU : Bool
/-- Does the WARL bit `mcontrol.S` hold what is written, or read 0 (62 R552)? -/
opaque mcontrolKeepsS : Bool

/-- MPIL_ENCODING: the image of a level in `mcause[27:24]`, given by the level's top four bits, which tell the
five levels of the E20 apart.  That the images differ is the round trip of 10 R75. -/
opaque mpilImage : Equiv.Perm (BitVec 4)

/-- Bits [31:1] of the debug trap vector, whose address the spec does not give (62 R570); bit 0 of a pc is 0. -/
opaque debugVector : BitVec 31

/-! ## Free values -/

/-- The clock cycles between boundary `k` and boundary `k + 1` (10 R92). -/
opaque cyclesInStep : Nat → Nat
/-- Which of the values a CLIC register held in the store window the interrupt logic sees (20 R161): at a
boundary, for register number `k`. -/
opaque clicViewIndex : Nat → Nat → Nat
/-- How many of the stores since the last FENCE.I the parcel fetched from an address misses (20 R172): at a
boundary, for an address. -/
opaque staleParcelDepth : Nat → Nat → Nat
/-- MSIE, MTIE, MEIE after a move from a CLIC mode to a non-CLIC mode (10 R66, 70 R603). -/
opaque mieAfterClic : Nat → BitVec 3
/-- The legal index a write of an illegal one to `tselect` leaves (10 R100). -/
opaque tselectLegal : Nat → BitVec 2
/-- The supported match type a write of an unsupported one leaves (62 R553). -/
opaque matchLegal : Nat → BitVec 2
/-- What `tdata3` reads (10 R103). -/
opaque tdata3Read : Nat → Word
/-- What `mtvec[5:2]` reads after a write of a non-zero value to it (10 R69). -/
opaque mtvecLowRead : Nat → BitVec 4
/-- What `mtvt[5:0]` reads after a write of a non-zero value to it (10 R70). -/
opaque mtvtLowRead : Nat → BitVec 6
/-- What bit 7 of `cliccfg` (WPRI, 61 R514) holds after a store of another value than it held. -/
opaque cliccfgBit7 : Nat → Bool
/-- Does a WFI with no wake-up condition stay rather than retire (43 R317)? -/
opaque wfiStays : Nat → Bool

end Sys2Proof.Config
end

