-- ==== Sys2Proof/Machine/State.lean ====
section
/-! DEFINITION. The state of the machine as plain data, the reasons a step stops, and the state after reset
(spec/10_state.md R30 to R120; INVENTORY.md lists every field with its rule). -/

namespace Sys2Proof.Machine

/-! ## Why a step stops -/

/-- A step that stops the machine. -/
inductive Fault where
  /-- Raised by `step` when the pc is odd, a state that no run reaches (10 R37).  Safe. -/
  | oddPc
  deriving DecidableEq, Repr

/-- A step to which the spec gives no meaning.  Each reason but the first is one the spec itself names, raised
by the operation its rule concerns; all of them are safe: the model stops where the hardware goes on. -/
inductive Refusal where
  /-- An instruction that is not modelled.  Raised by an arm of `exec`; safe. -/
  | notModelled (mnemonic : String)
  /-- A trap while `mtvec[5:2]` is not 0 (10 R69).  Raised by trap entry; safe. -/
  | mtvecBaseUnaligned
  /-- A use of the CLIC vector table while `mtvt[5:0]` is not 0 (10 R70).  Raised by vectored entry and
  `mnxti`; safe. -/
  | mtvtUnaligned
  /-- `mtvec.MODE` moved between CLIC and non-CLIC with MIE = 1 (70 R603).  Raised by CSR writes; safe. -/
  | modeSwitchWithMie
  /-- A CSR write that would set `mcause.minhv` (10 R73).  Raised by CSR writes; safe. -/
  | minhvWrite
  /-- A CSR write to `mcause[27:24]` of a value never read from there, or that is no level's image (10 R75).
  Raised by CSR writes; safe. -/
  | mpilImageUnknown
  /-- A read of `mcause`, or MRET, while the last value written to its Exception Code is an illegal one (10 R73;
  93 U2).  Raised by the CSR instructions and MRET; safe. -/
  | mcauseCodeIllegal
  /-- An access to a CSR whose presence is unknown (10 R86, R94, R95, R105).  Raised by the CSR
  instructions; safe. -/
  | csrPresenceUnknown
  /-- The vector-table read would fault (60 R449).  Raised by vectored entry; safe. -/
  | tableReadFault
  /-- MRET with `mcause.minhv` = 1 (60 R449).  Raised by MRET; safe. -/
  | mretMinhv
  /-- `mnxti` accessed by CSRRW, CSRRWI, or a writing CSRRS or CSRRC (60 R476 (a)).  Safe. -/
  | mnxtiForm
  /-- `mnxti` accessed in a non-CLIC mode (60 R476 (b)).  Safe. -/
  | mnxtiNonClic
  /-- `mnxti` accessed while the winning interrupt is hardware-vectored (60 R476 (c)).  Safe. -/
  | mnxtiVectored
  /-- An interrupt decision with `cliccfg.nlbits` above 2 (61 R520).  Raised by the interrupt decision and
  `mnxti`; safe. -/
  | nlbitsTooLarge
  /-- An access to an unimplemented address of the CLIC region (61 R509).  Raised by loads and stores;
  safe. -/
  | clicAddress
  /-- An access checked by a trigger with a NAPOT range above 16 bytes (62 R554).  Safe. -/
  | napotRange
  /-- Only a higher byte of an access lies in a trigger's range (62 R555).  Safe. -/
  | triggerHigherByte
  /-- A write of `chain` = 1 to trigger 3 (62 R556).  Raised by CSR writes; safe. -/
  | triggerChainLast
  /-- A write of `action` other than 0 or of `dmode` = 1 from machine mode (62 R558).  Raised by CSR writes;
  safe. -/
  | triggerActionOrDmodeWrite
  /-- A breakpoint trigger fires while MIE = 0 (62 R559).  Safe. -/
  | triggerInHandler
  /-- A load, store or fetch that reaches a platform device: its behaviour is the platform's (00 R8, 20 R144).
  Safe. -/
  | platformDevice
  /-- A store to platform ROM: what it does is the platform's (20 R144).  Safe. -/
  | romStore
  /-- A store the platform answers with an error after it has retired (20 R163).  Safe. -/
  | storeBusErrorLate
  /-- A step in debug mode: its instructions are the debugger's (00 R8, 62 R570).  Raised by `step`; safe. -/
  | debugModeExecution
  /-- An access in debug mode to the debug module's memory, whose registers are not described (62 R575 to
  R577).  Safe. -/
  | debugMemory
  /-- An access in debug mode to `dcsr`, whose layout is not described (62 R571).  Safe. -/
  | dcsrLayout
  deriving DecidableEq, Repr

/-! ## Parts of the state -/

/-- The parameters of 00 R10 that an instruction's result or the reset depends on.  They never change. -/
structure Params where
  /-- RESET_VECTOR (70 R591) -/
  resetVector : Word
  /-- LINT_TOP_ID is 48 rather than 47: interrupt 48 is implemented (60 R421; 92 D14) -/
  lint32 : Bool
  /-- MISA_VALUE is 0 rather than 0x4000_1104 (10 R63; 92 D17) -/
  misaZero : Bool
  deriving DecidableEq, Repr

/-- The fields of one trigger that can change (10 R101, R102). -/
structure Trigger where
  /-- R: match on loads -/
  r : Bool
  /-- W: match on stores -/
  w : Bool
  /-- X: match on instruction fetches -/
  x : Bool
  /-- U -/
  u : Bool
  /-- S -/
  sv : Bool
  /-- M: match in machine mode -/
  m : Bool
  /-- the low two bits of `match`; the field holds 0 to 3 only (62 R553) -/
  matchType : BitVec 2
  chain : Bool
  /-- `action` is 1 (enter debug mode) rather than 0 (breakpoint exception) -/
  actionDebug : Bool
  dmode : Bool
  /-- `tdata2`, the match address -/
  tdata2 : Word
  deriving DecidableEq, Repr

/-- The stored registers of the CLIC (61 R503, R504, R511 to R514). -/
structure ClicRegs where
  /-- bit 0 of `msip` and of `clicintip[3]` -/
  msip : Bool
  /-- bit 0 of `clicintip[12]` -/
  csip : Bool
  mtimecmp : BitVec 64
  /-- bit `id` is bit 0 of `clicintie[id]` -/
  ie : BitVec 49
  /-- entry `id` is bits 7:6 of `clicintcfg[id]` -/
  cfg : Vector (BitVec 2) 49
  nvbits : Bool
  nlbits : BitVec 4
  /-- bit 7 of `cliccfg`, reserved (61 R514) -/
  cliccfg7 : Bool
  deriving DecidableEq, Repr

/-- What the environment delivers at one instruction boundary (61 R505, R510). -/
structure BoundaryInput where
  /-- `machine_external_interrupt` -/
  meip : Bool
  /-- `local_interrupts[31:0]`, and above them the input of interrupt 48 where it is implemented -/
  lint : BitVec 33
  /-- by how much `mtime` advances -/
  ticks : Nat
  deriving DecidableEq, Repr

/-- What one store replaced in memory: the bytes that stood from `addr` upward. -/
structure StoreUndo where
  addr : Nat
  old : List Byte
  deriving DecidableEq, Repr

/-- What answers at a System Port address (SYSPORT_MEM, 20 R144). -/
inductive PortBacking where
  | ram
  | rom
  | device
  /-- every access is answered with an error, reported precisely -/
  | error
  /-- every access is answered with an error, which for a store arrives after it has retired (20 R163) -/
  | errorLate
  deriving DecidableEq, Repr

/-- A range of System Port addresses that is not plain RAM. -/
structure PortRegion where
  base : Nat
  size : Nat
  backing : PortBacking
  deriving DecidableEq, Repr

/-! ## The state -/

/-- Everything the spec gives the machine, and the model's own `mpilSeen`, `clicOld`, `unfenced`, `inputs`, `platform`,
`params` and `boundary`. -/
structure State where
  /-- the general registers (10 R30) -/
  x : Vector Word 32
  /-- 10 R36 -/
  pc : Word
  /-- is the hart in debug mode (10 R43)? -/
  debugMode : Bool
  /-- is the hart stalled in the WFI at the pc (43 R317)? -/
  waiting : Bool
  mstatusMie : Bool
  /-- `mstatus.MPIE`, the same bit as `mcause.mpie` (10 R74) -/
  mstatusMpie : Bool
  mieMsie : Bool
  mieMtie : Bool
  mieMeie : Bool
  mtvec : Word
  mtvt : Word
  mscratch : Word
  mepc : Word
  mcauseInterrupt : Bool
  mcauseCode : BitVec 10
  /-- the saved interrupt level, whole (10 R75) -/
  mcauseMpil : Level
  /-- bit `n`: `mcause` has been read while the saved level had the top four bits `n` (10 R75) -/
  mpilSeen : BitVec 16
  mcauseMinhv : Bool
  mtval : Word
  /-- `mintstatus.mil`, the current interrupt level (10 R85) -/
  mil : Level
  /-- `mcycle` less the cycles drawn so far (10 R92) -/
  mcycleBase : BitVec 64
  minstret : BitVec 64
  tselect : BitVec 2
  triggers : Vector Trigger 4
  /-- `dcsr.ebreakm` (62 R572) -/
  dcsrEbreakm : Bool
  /-- `dcsr.step` (62 R570) -/
  dcsrStep : Bool
  dpc : Word
  dscratch : Word
  /-- the CLIC registers as a load reads them -/
  clic : ClicRegs
  /-- older values of the CLIC registers that the interrupt logic may still see (20 R161), newest first -/
  clicOld : List ClicRegs
  mtime : BitVec 64
  /-- the wire `machine_external_interrupt` -/
  meipWire : Bool
  /-- the wires `local_interrupts[31:0]`, and above them the input of interrupt 48 where it is implemented -/
  lintWires : BitVec 33
  /-- what the environment delivers at the next boundaries -/
  inputs : List BoundaryInput
  /-- the bytes behind the System Port, in canonical form: addresses rising, no zero byte listed -/
  mem : List Host.Cell
  /-- the bytes replaced by stores since the last FENCE.I, newest first (20 R170, R172) -/
  unfenced : List StoreUndo
  /-- the System Port ranges that are not plain RAM -/
  platform : List PortRegion
  params : Params
  /-- the number of instruction boundaries passed; the argument of the free values -/
  boundary : Nat
  deriving DecidableEq, Repr

/-! ## After reset (10 R120, 70 R591) -/

/-- A trigger that is disabled.  R, W, X, U, S, M, match and `tdata2` have no stated reset value:
DESIGN CHOICE, notes/assumptions/1.md. -/
def Trigger.reset : Trigger where
  r := false
  w := false
  x := false
  u := false
  sv := false
  m := false
  matchType := 0#2
  chain := false
  actionDebug := false
  dmode := false
  tdata2 := 0#32

/-- The CLIC registers after reset; `mtimecmp` is a DESIGN CHOICE, notes/assumptions/1.md. -/
def ClicRegs.reset : ClicRegs where
  msip := false
  csip := false
  mtimecmp := 0#64
  ie := 0#49
  cfg := Vector.replicate 49 0#2
  nvbits := false
  nlbits := 0#4
  cliccfg7 := false

/-- The machine right after reset, for every choice of the parameters and of what the environment supplies:
SYSPORT_MEM with its contents, and the inputs of the run.  Fields whose reset value the spec leaves open are 0,
`mcause` (Interrupt, code and `mpil`) among them (70 R592): DESIGN CHOICE, notes/assumptions/1.md to 4.md. -/
def State.resetWith (p : Params) (platform : List PortRegion) (mem : List Host.Cell)
    (inputs : List BoundaryInput) : State where
  x := Vector.replicate 32 0#32
  pc := p.resetVector
  debugMode := false
  waiting := false
  mstatusMie := false
  mstatusMpie := false
  mieMsie := false
  mieMtie := false
  mieMeie := false
  mtvec := 0#32
  mtvt := 0#32
  mscratch := 0#32
  mepc := 0#32
  mcauseInterrupt := false
  mcauseCode := 0#10
  mcauseMpil := 0#8
  mpilSeen := 0#16
  mcauseMinhv := false
  mtval := 0#32
  mil := 0#8
  mcycleBase := 0#64
  minstret := 0#64
  tselect := 0#2
  triggers := Vector.replicate 4 Trigger.reset
  dcsrEbreakm := false
  dcsrStep := false
  dpc := 0#32
  dscratch := 0#32
  clic := ClicRegs.reset
  clicOld := []
  mtime := 0#64
  meipWire := false
  lintWires := 0#33
  inputs := inputs
  mem := mem
  unfenced := []
  platform := platform
  params := p
  boundary := 0

/-- The parameters at the values 00 R10 recommends.  It recommends none for RESET_VECTOR, which must lie in the
System Port: DESIGN CHOICE, notes/assumptions/2.md. -/
def Params.recommended : Params where
  resetVector := 0x20000000#32
  lint32 := false
  misaZero := false

/-- The machine right after reset with the recommended parameters and nothing supplied by the environment. -/
def State.reset : State := State.resetWith Params.recommended [] [] []

end Sys2Proof.Machine
end

