-- ==== Sys2Proof/Machine/Clic.lean ====
section
/-! DEFINITION. The memory-mapped registers of the CLIC byte by byte, levels and priorities, and the interrupt
decision (spec/61_clic.md R500 to R526; spec/60_exceptions.md R451 to R463). -/

namespace Sys2Proof.Machine

/-! ## Interrupt IDs and pending bits (60 R421, 61 R511) -/

/-- LINT_TOP_ID: the highest implemented interrupt ID (60 R421, 61 R509). -/
def lintTopId (p : Params) : Nat := if p.lint32 then 48 else 47

/-- The implemented interrupt IDs (61 R509). -/
def implementedId (p : Params) (id : Nat) : Bool :=
  id == 3 || id == 7 || id == 11 || id == 12 || (16 ≤ id && id ≤ lintTopId p)

/-- The configuration bits of `clicintcfg[id]` (61 R513). -/
def ClicRegs.cfgOf (c : ClicRegs) (id : Nat) : BitVec 2 := if h : id < 49 then c.cfg[id] else 0#2

/-- The timer comparison (61 R506). -/
def timerPending (mtime mtimecmp : BitVec 64) : Bool := mtimecmp.ule mtime

/-- The pending bit of an interrupt, given its three stored inputs; the others are wires (61 R511). -/
def pendingOf (s : State) (msip csip : Bool) (mtimecmp : BitVec 64) (id : Nat) : Bool :=
  if id = 3 then msip
  else if id = 7 then timerPending s.mtime mtimecmp
  else if id = 11 then s.meipWire
  else if id = 12 then csip
  else if implementedId s.params id then s.lintWires.getLsbD (id - 16)
  else false

/-- The pending bit as `clicintip[id]` and `mip` read it. -/
def pendingNow (s : State) (id : Nat) : Bool := pendingOf s s.clic.msip s.clic.csip s.clic.mtimecmp id

/-! ## The registers, byte by byte (61 R501, R508; 20 R157) -/

/-- What stands at an implemented byte address of the CLIC region. -/
inductive ClicSlot where
  /-- byte `k` of `msip` -/
  | msip (k : Nat)
  /-- byte `k` of `mtimecmp` -/
  | mtimecmp (k : Nat)
  /-- byte `k` of `mtime` -/
  | mtime (k : Nat)
  | ip (id : Nat)
  | ie (id : Nat)
  | cfg (id : Nat)
  | cliccfg
  deriving DecidableEq, Repr

/-- The slot at a byte address; `none` where nothing is implemented (61 R509). -/
def clicSlot (p : Params) (a : Nat) : Option ClicSlot :=
  if 0x02000000 ≤ a ∧ a < 0x02000004 then some (.msip (a - 0x02000000))
  else if 0x02004000 ≤ a ∧ a < 0x02004008 then some (.mtimecmp (a - 0x02004000))
  else if 0x0200BFF8 ≤ a ∧ a < 0x0200C000 then some (.mtime (a - 0x0200BFF8))
  else if 0x02800000 ≤ a ∧ a ≤ 0x02800000 + lintTopId p then some (.ip (a - 0x02800000))
  else if 0x02800400 ≤ a ∧ a ≤ 0x02800400 + lintTopId p then some (.ie (a - 0x02800400))
  else if 0x02800800 ≤ a ∧ a ≤ 0x02800800 + lintTopId p then some (.cfg (a - 0x02800800))
  else if a = 0x02800C00 then some .cliccfg
  else none

/-- A one-bit register as the byte it is read as. -/
def bitByte (b : Bool) : Byte := (BitVec.ofBool b).setWidth 8

/-- Replace one byte of a 64-bit register. -/
def setByte64 (v : BitVec 64) (k : Nat) (b : Byte) : BitVec 64 :=
  (v &&& ~~~(0xFF#64 <<< (8 * k))) ||| (b.setWidth 64 <<< (8 * k))

/-- Replace one bit of the enable bits. -/
def setIeBit (v : BitVec 49) (i : Nat) (b : Bool) : BitVec 49 :=
  if b then v ||| (1#49 <<< i) else v &&& ~~~(1#49 <<< i)

/-- What a load reads at a slot (61 R503 to R505, R511 to R514); reserved IDs read 0 (61 R509). -/
def clicReadSlot (s : State) : ClicSlot → Byte
  | .msip k => if k = 0 then bitByte s.clic.msip else 0#8
  | .mtimecmp k => s.clic.mtimecmp.extractLsb' (8 * k) 8
  | .mtime k => s.mtime.extractLsb' (8 * k) 8
  | .ip id => bitByte (pendingNow s id)
  | .ie id => bitByte (s.clic.ie.getLsbD id)
  | .cfg id => s.clic.cfgOf id ++ 0#6
  | .cliccfg => BitVec.ofBool s.clic.cliccfg7 ++ 0#2 ++ s.clic.nlbits ++ BitVec.ofBool s.clic.nvbits

/-- What a store changes at a slot; read-only bits and reserved IDs ignore it (61 R503 to R514).
Bit 7 of `cliccfg` is WPRI: a store of the value it holds preserves it, a store of the other one leaves a free
value: DESIGN CHOICE, notes/assumptions/22.md. -/
def clicWriteSlot (s : State) (b : Byte) : ClicSlot → State
  | .msip k => if k = 0 then { s with clic := { s.clic with msip := b.getLsbD 0 } } else s
  | .mtimecmp k => { s with clic := { s.clic with mtimecmp := setByte64 s.clic.mtimecmp k b } }
  | .mtime k => { s with mtime := setByte64 s.mtime k b }
  | .ip id =>
    if id = 3 then { s with clic := { s.clic with msip := b.getLsbD 0 } }
    else if id = 12 then { s with clic := { s.clic with csip := b.getLsbD 0 } }
    else s
  | .ie id =>
    if implementedId s.params id then { s with clic := { s.clic with ie := setIeBit s.clic.ie id (b.getLsbD 0) } } else s
  | .cfg id =>
    if implementedId s.params id then
      { s with clic := { s.clic with cfg := s.clic.cfg.setIfInBounds id (b.extractLsb' 6 2) } }
    else s
  | .cliccfg =>
    { s with clic := { s.clic with
        nvbits := b.getLsbD 0
        nlbits := b.extractLsb' 1 4
        cliccfg7 := if b.getLsbD 7 = s.clic.cliccfg7 then s.clic.cliccfg7 else Config.cliccfgBit7 s.boundary } }

/-- The `n` bytes a load reads from `a` upward; `none` if one of them is not implemented (61 R509). -/
def clicRead (s : State) (a : Nat) : Nat → Option (List Byte)
  | 0 => some []
  | n + 1 =>
    match clicSlot s.params a, clicRead s (a + 1) n with
    | some slot, some bs => some (clicReadSlot s slot :: bs)
    | _, _ => none

/-- Store the bytes `bs` from `a` upward; `none` if one of the addresses is not implemented (61 R509). -/
def clicWrite (s : State) (a : Nat) : List Byte → Option State
  | [] => some s
  | b :: bs =>
    match clicSlot s.params a with
    | some slot => clicWrite (clicWriteSlot s b slot) (a + 1) bs
    | none => none

/-- Keep the older values visible to the interrupt logic after a store that changed a register (20 R161). -/
def openClicWindow (before after : State) : State :=
  if before.clic = after.clic then after else { after with clicOld := before.clic :: before.clicOld }

/-! ## What the interrupt logic sees (20 R161) -/

/-- The values of the CLIC registers among which the interrupt logic picks for register number `k`: the current
ones, or, until a read-back, one of the older ones. -/
def clicSeen (s : State) (k : Nat) : ClicRegs :=
  match s.clicOld with
  | [] => s.clic
  | old => (s.clic :: old).getD (Config.clicViewIndex s.boundary k % (old.length + 1)) s.clic

/-- `mtimecmp` as the interrupt logic sees it: a value the register held, both halves of one moment (61 R507). -/
def seenMtimecmp (s : State) : BitVec 64 := (clicSeen s 148).mtimecmp

/-- The pending bit as the interrupt logic sees it. -/
def pendingSeen (s : State) (id : Nat) : Bool :=
  pendingOf s (clicSeen s 3).msip (clicSeen s 12).csip (seenMtimecmp s) id

/-- The enable bit as the interrupt logic sees it. -/
def enabledSeen (s : State) (id : Nat) : Bool := (clicSeen s (49 + id)).ie.getLsbD id

/-- The configuration bits as the interrupt logic sees them. -/
def cfgSeen (s : State) (id : Nat) : BitVec 2 := (clicSeen s (98 + id)).cfgOf id

def nvbitsSeen (s : State) : Bool := (clicSeen s 147).nvbits
def nlbitsSeen (s : State) : BitVec 4 := (clicSeen s 147).nlbits

/-! ## Levels and priorities (61 R520, R521) -/

/-- Is bit 6 of `clicintcfg` left out of level and priority (61 R521)? -/
def shvBitLeftOut (nvbits : Bool) : Bool := nvbits && !Config.shvBitInPriority

/-- The pre-emption level of an interrupt with configuration bits `c`, for `nlbits` from 0 to 2 (61 R520, R521).
A decision with more level bits is refused before it uses this. -/
def levelOf (nvbits : Bool) (nlbits : BitVec 4) (c : BitVec 2) : Level :=
  if nlbits = 0#4 then 255#8
  else if nlbits = 1#4 ∨ shvBitLeftOut nvbits then c.extractLsb' 1 1 ++ 0b1111111#7
  else c ++ 0b111111#6

/-- The priority within a level (61 R520, R521). -/
def priorityOf (nvbits : Bool) (nlbits : BitVec 4) (c : BitVec 2) : Nat :=
  if shvBitLeftOut nvbits then (if nlbits = 0#4 then (c.extractLsb' 1 1).toNat else 0)
  else if nlbits = 0#4 then c.toNat
  else if nlbits = 1#4 then (c.extractLsb' 0 1).toNat
  else 0

/-- The level of interrupt `id`, as the interrupt logic sees it. -/
def levelSeen (s : State) (id : Nat) : Level := levelOf (nvbitsSeen s) (nlbitsSeen s) (cfgSeen s id)

/-- Level and priority as one number that orders interrupts by level first (60 R461). -/
def rankSeen (s : State) (id : Nat) : Nat :=
  4 * (levelSeen s id).toNat + priorityOf (nvbitsSeen s) (nlbitsSeen s) (cfgSeen s id)

/-! ## The interrupt decision -/

/-- The pending and enabled interrupts in rising order: the set P of 60 R460. -/
def pendingEnabled (s : State) : List Nat :=
  (List.range (lintTopId s.params + 1)).filter fun id =>
    implementedId s.params id && pendingSeen s id && enabledSeen s id

/-- The better of two interrupts, of which the second has the higher ID (60 R461). -/
def betterOf (s : State) (best : Option Nat) (id : Nat) : Option Nat :=
  match best with
  | none => some id
  | some b => if rankSeen s b ≤ rankSeen s id then some id else some b

/-- The winner among the pending and enabled interrupts (60 R461). -/
def winner (s : State) : Option Nat := (pendingEnabled s).foldl (betterOf s) none

/-- CLIC mode: `mtvec.MODE` is 2 or 3 (60, terms). -/
def clicMode (s : State) : Bool := s.mtvec.getLsbD 1

/-- What is decided at an instruction boundary. -/
inductive Decision where
  | noInterrupt
  | take (id : Nat)
  | refuse (r : Refusal)
  deriving DecidableEq, Repr

/-- The decision in CLIC mode with MIE = 1 (60 R460; 61 R520). -/
def clicDecision (s : State) : Decision :=
  match winner s with
  | none => .noInterrupt
  | some w =>
    if 2#4 < nlbitsSeen s then .refuse .nlbitsTooLarge
    else if s.mil < levelSeen s w then .take w
    else .noInterrupt

/-- The decision in a non-CLIC mode with MIE = 1: external, then software, then timer (60 R451, R453). -/
def basicDecision (s : State) : Decision :=
  if s.mieMeie && pendingSeen s 11 then .take 11
  else if s.mieMsie && pendingSeen s 3 then .take 3
  else if s.mieMtie && pendingSeen s 7 then .take 7
  else .noInterrupt

/-- The interrupt decision at an instruction boundary (60 R431, R451, R460, R463). -/
def interruptDecision (s : State) : Decision :=
  if s.mstatusMie then (if clicMode s then clicDecision s else basicDecision s) else .noInterrupt

/-- The wake-up condition of WFI: an interrupt is pending and locally enabled, whatever `mstatus.MIE` and the
level say (43 R317). -/
def wakeUp (s : State) : Bool :=
  if clicMode s then
    (List.range (lintTopId s.params + 1)).any fun id => pendingNow s id && s.clic.ie.getLsbD id
  else
    (s.mieMsie && pendingNow s 3) || (s.mieMtie && pendingNow s 7) || (s.mieMeie && pendingNow s 11)

/-- Does an interrupt taken in CLIC mode go through the vector table (60 R447, R448)? -/
def hardwareVectored (s : State) (id : Nat) : Bool :=
  s.mtvec.getLsbD 0 || (nvbitsSeen s && (cfgSeen s id).getLsbD 0)

end Sys2Proof.Machine
end

