-- ==== Sys2Proof/Machine/Memory.lean ====
section
/-! DEFINITION. The bytes behind the System Port as a list of cells in canonical form, and byte order
(spec/20_memory.md R131, R135). -/

namespace Sys2Proof.Machine

/-- The canonical form: addresses strictly rising, and no cell that holds what an unlisted address reads as. -/
abbrev Memory.wf (m : List Host.Cell) : Prop :=
  (m.map Prod.fst).Pairwise (· < ·) ∧ ∀ c ∈ m, c.2 ≠ 0#8

/-- The byte at `a`.  An unlisted address reads 0: DESIGN CHOICE, notes/assumptions/3.md. -/
def Memory.read : List Host.Cell → Nat → Byte
  | [], _ => 0#8
  | c :: m, a => if c.1 = a then c.2 else Memory.read m a

/-- Put a cell before the first one with a greater address. -/
def Memory.insert (a : Nat) (b : Byte) : List Host.Cell → List Host.Cell
  | [] => [(a, b)]
  | c :: m => if a < c.1 then (a, b) :: c :: m else c :: Memory.insert a b m

/-- Store `b` at `a`, keeping the canonical form. -/
def Memory.write (m : List Host.Cell) (a : Nat) (b : Byte) : List Host.Cell :=
  if b = 0#8 then m.filter (fun c => c.1 ≠ a)
  else Memory.insert a b (m.filter (fun c => c.1 ≠ a))

/-- The `n` bytes from `a` upward. -/
def Memory.readBytes (m : List Host.Cell) (a : Nat) : Nat → List Byte
  | 0 => []
  | n + 1 => Memory.read m a :: Memory.readBytes m (a + 1) n

/-- Store the bytes `bs` from `a` upward. -/
def Memory.writeBytes (m : List Host.Cell) (a : Nat) : List Byte → List Host.Cell
  | [] => m
  | b :: bs => Memory.writeBytes (Memory.write m a b) (a + 1) bs

/-- Byte `k` of a word, byte 0 the least significant (20 R135). -/
def wordByte (v : Word) (k : Nat) : Byte := v.extractLsb' (8 * k) 8

/-- The low `n` bytes of a word in memory order (20 R135). -/
def bytesOf (v : Word) (n : Nat) : List Byte := (List.range n).map (wordByte v)

/-- Up to four bytes in memory order as a word, zero-extended (20 R135). -/
def ofBytes : List Byte → Word
  | [] => 0#32
  | b :: bs => b.setWidth 32 ||| (ofBytes bs <<< 8)

end Sys2Proof.Machine
end

