-- ==== Sys2Proof/Machine/Trigger.lean ====
section
/-! DEFINITION. The results of an access, and the trigger check (spec/62_debug.md R550 to R559). -/

namespace Sys2Proof.Machine

/-- The synchronous exceptions the E20 can raise (60 R420). -/
inductive ExceptionCause where
  | instructionAccessFault
  | illegalInstruction
  | breakpoint
  | loadAddressMisaligned
  | loadAccessFault
  | storeAddressMisaligned
  | storeAccessFault
  | environmentCallFromM
  deriving DecidableEq, Repr

/-- The exception code (60 R420). -/
def ExceptionCause.code : ExceptionCause → BitVec 10
  | .instructionAccessFault => 1#10
  | .illegalInstruction => 2#10
  | .breakpoint => 3#10
  | .loadAddressMisaligned => 4#10
  | .loadAccessFault => 5#10
  | .storeAddressMisaligned => 6#10
  | .storeAccessFault => 7#10
  | .environmentCallFromM => 11#10

/-- How an access, or an instruction that makes one, ends. -/
inductive Access (α : Type) where
  | ok (v : α)
  /-- an exception with the value for `mtval` -/
  | raise (cause : ExceptionCause) (tval : Word)
  /-- a trigger whose action is to enter debug mode -/
  | debug
  | refuse (r : Refusal)
  deriving DecidableEq, Repr

/-- Go on with the value of an access that succeeded. -/
def Access.bind {α β : Type} (m : Access α) (f : α → Access β) : Access β :=
  match m with
  | .ok v => f v
  | .raise cause tval => .raise cause tval
  | .debug => .debug
  | .refuse r => .refuse r

/-- What an access does. -/
inductive AccessKind where
  | load
  | store
  | fetch
  deriving DecidableEq, Repr

/-- Can the trigger fire on accesses of this kind made in machine mode (62 R552)? -/
def Trigger.enabledFor (t : Trigger) (k : AccessKind) : Bool :=
  t.m && match k with
    | .load => t.r
    | .store => t.w
    | .fetch => t.x

/-- The mask of the NAPOT range `t` encodes: ones up to and including its lowest zero bit (62 R554). -/
def napotMask (t : Word) : Word := t ^^^ (t + 1#32)

/-- Does the trigger ask for a NAPOT range above the 16 bytes of `maskmax` = 4 (62 R554)? -/
def Trigger.unsupportedRange (t : Trigger) : Bool := t.matchType == 1#2 && (15#32).ult (napotMask t.tdata2)

/-- The comparison of one address (62 R553). -/
def Trigger.hits (t : Trigger) (a : Word) : Bool :=
  if t.matchType = 0#2 then a == t.tdata2
  else if t.matchType = 1#2 then (a &&& ~~~napotMask t.tdata2) == (t.tdata2 &&& ~~~napotMask t.tdata2)
  else if t.matchType = 2#2 then t.tdata2.ule a
  else a.ult t.tdata2

/-- Does one of the `n` bytes from `a` upward match? -/
def Trigger.hitsAny (t : Trigger) (a : Word) (n : Nat) : Bool :=
  (List.range n).any fun k => t.hits (a + BitVec.ofNat 32 k)

/-- The triggers that fire when those with `hit` match: one with `chain` takes no action itself, and its upper
neighbour fires only with it (62 R555, R556).  `lower` says that the lower neighbour allows it. -/
def firing (hit : Trigger → Bool) (lower : Bool) : List Trigger → List Trigger
  | [] => []
  | t :: ts =>
    let rest := firing hit (!t.chain || hit t) ts
    if hit t && lower && !t.chain then t :: rest else rest

/-- The triggers that fire on the lowest address of an access. -/
def firingLow (s : State) (k : AccessKind) (a : Word) : List Trigger :=
  firing (fun t => t.enabledFor k && t.hits a) true s.triggers.toList

/-- The triggers that fire when every byte of an access is compared.  A chained pair counts as matched also where
two different bytes of the access match its two triggers (62 R556 says "the same access"); as no single address
then matches both, such an access is refused: DESIGN CHOICE, notes/assumptions/14.md. -/
def firingAny (s : State) (k : AccessKind) (a : Word) (n : Nat) : List Trigger :=
  firing (fun t => t.enabledFor k && t.hitsAny a n) true s.triggers.toList

/-- The trigger check on `n` bytes at `a` (62 R555).  Triggers do not fire in debug mode (62 R552: they are
enabled for machine mode). -/
def triggerCheck (s : State) (k : AccessKind) (a : Word) (n : Nat) : Access Unit :=
  if s.debugMode then .ok ()
  else if s.triggers.toList.any (fun t => t.enabledFor k && t.unsupportedRange) then .refuse .napotRange
  else if (firingLow s k a).any (·.actionDebug) then .debug
  else if firingLow s k a ≠ [] then
    (if s.mstatusMie then .raise .breakpoint a else .refuse .triggerInHandler)
  else if firingAny s k a n ≠ [] then .refuse .triggerHigherByte
  else .ok ()

end Sys2Proof.Machine
end

