-- ==== Sys2Proof/Machine/Ops.lean ====
section
/-! DEFINITION. The named operations over registers and memory that the meanings share: register access,
retiring, trap entry and return, the regions of the address map, data accesses and instruction fetch
(spec/10_state.md, 20_memory.md, 60_exceptions.md). -/

namespace Sys2Proof.Machine

/-! ## General registers (10 R31, R33) -/

/-- Read a register; `x0` reads 0. -/
def readReg (s : State) (r : Reg) : Word := if r = 0#5 then 0#32 else s.x.get r.toFin

/-- Write a register; a write to `x0` is discarded. -/
def writeReg (s : State) (r : Reg) (v : Word) : State :=
  if r = 0#5 then s else { s with x := s.x.set r.toNat v r.isLt }

/-! ## Retiring (10 R36, R91) -/

/-- The instruction completes: it is counted, and the next one is at `next`. -/
def retire (s : State) (next : Word) : State := { s with pc := next, minstret := s.minstret + 1#64 }

/-! ## Trap entry and return (60 R440 to R449, R470) -/

/-- `mtvec & 0xFFFF_FFC0` (60 R442). -/
def trapBase (s : State) : Word := s.mtvec &&& 0xFFFFFFC0#32

/-- What trap entry saves and changes, all but the pc and the interrupt level (60 R440). -/
def saveTrap (s : State) (interrupt : Bool) (code : BitVec 10) (tval : Word) : State :=
  { s with
    mepc := s.pc
    mcauseInterrupt := interrupt
    mcauseCode := code
    mtval := tval
    mstatusMpie := s.mstatusMie
    mstatusMie := false
    mcauseMpil := if clicMode s then s.mil else s.mcauseMpil }

/-- Taking a synchronous exception (60 R440, R442 to R447): refused while `mtvec[5:2]` is not 0 (10 R69).  That an
instruction executed in debug mode takes its exceptions in the same way, and stays in debug mode, is a
DESIGN CHOICE, notes/assumptions/6.md: 62 R570 gives debug mode no semantics. -/
def takeException (s : State) (cause : ExceptionCause) (tval : Word) : Host.Outcome State Fault Refusal :=
  if s.mtvec.extractLsb' 2 4 = 0#4 then
    .next { saveTrap s false cause.code tval with pc := trapBase s }
  else .refused .mtvecBaseUnaligned

/-- What answers at a System Port address: the entry for the aligned word that holds it, else RAM
(notes/assumptions/3.md). -/
def backingOf : List PortRegion → Nat → PortBacking
  | [], _ => .ram
  | p :: ps, a => if p.base ≤ a - a % 4 ∧ a - a % 4 < p.base + p.size then p.backing else backingOf ps a

/-- The ranges of the memory map (20 R140). -/
inductive Region where
  | debug
  | reserved
  | clic
  | sysPort
  deriving DecidableEq, Repr

/-- The range an address lies in (20 R140). -/
def regionOf (a : Word) : Region :=
  if a.toNat < 0x1000 then .debug
  else if 0x02000000 ≤ a.toNat ∧ a.toNat < 0x03000000 then .clic
  else if 0x20000000 ≤ a.toNat ∧ a.toNat < 0x40000000 then .sysPort
  else .reserved

/-- The address of a vector-table entry (60 R447). -/
def tableEntry (s : State) (id : Nat) : Word := (s.mtvt &&& 0xFFFFFFC0#32) + BitVec.ofNat 32 (4 * id)

/-- The read of a vector-table entry (60 R447), refused where it would fault (60 R449) or the table's base is
reserved (10 R70). -/
def readTable (s : State) (id : Nat) : Except Refusal Word :=
  if s.mtvt.extractLsb' 0 6 = 0#6 then
    match regionOf (tableEntry s id) with
    | .sysPort =>
      match backingOf s.platform (tableEntry s id).toNat with
      | .ram => .ok (ofBytes (Memory.readBytes s.mem (tableEntry s id).toNat 4))
      | .rom => .ok (ofBytes (Memory.readBytes s.mem (tableEntry s id).toNat 4))
      | .device => .error .platformDevice
      | .error => .error .tableReadFault
      | .errorLate => .error .tableReadFault
    | _ => .error .tableReadFault
  else .error .mtvtUnaligned

/-- Bit 0 cleared (10 R37). -/
def clearBit0 (a : Word) : Word := a &&& 0xFFFFFFFE#32

/-- Where an interrupt in a non-CLIC mode goes (60 R443, R444). -/
def basicTarget (s : State) (id : Nat) : Word :=
  if s.mtvec.getLsbD 0 then trapBase s + BitVec.ofNat 32 (4 * id) else trapBase s

/-- The state after the entry for interrupt `id`, all but the pc; in CLIC mode the level becomes the
interrupt's (60 R440, R446). -/
def saveInterrupt (s : State) (id : Nat) : State :=
  { saveTrap s true (BitVec.ofNat 10 id) 0#32 with mil := if clicMode s then levelSeen s id else s.mil }

/-- Taking interrupt `id` (60 R440, R442 to R449).  A completed table read leaves `minhv` 0. -/
def takeInterrupt (s : State) (id : Nat) : Host.Outcome State Fault Refusal :=
  if s.mtvec.extractLsb' 2 4 = 0#4 then
    if clicMode s then
      if hardwareVectored s id then
        match readTable s id with
        | .ok a => .next { saveInterrupt s id with mcauseMinhv := false, pc := clearBit0 a }
        | .error r => .refused r
      else .next { saveInterrupt s id with pc := trapBase s }
    else .next { saveInterrupt s id with pc := basicTarget s id }
  else .refused .mtvecBaseUnaligned

/-- What MRET changes (43 R316, 60 R470); MPP is hard-wired (10 R62). -/
def trapReturn (s : State) : State :=
  { s with
    mil := if clicMode s then s.mcauseMpil else s.mil
    mstatusMie := s.mstatusMpie
    mstatusMpie := true }

/-- The debug trap vector: an even address the spec does not give (62 R570; notes/assumptions/6.md). -/
def debugEntry : Word := Config.debugVector ++ 0#1

/-- Entering debug mode: the pc is copied to `dpc`, the hart jumps to the debug trap vector, and no machine-mode
CSR changes (62 R570). -/
def enterDebug (s : State) : State := { s with dpc := s.pc, pc := debugEntry, debugMode := true }

/-- Single step: with `dcsr.step` = 1, what leaves the hart in machine mode is followed by the entry into debug
mode (62 R570).  The details are a DESIGN CHOICE, notes/assumptions/6.md. -/
def singleStep (s : State) (o : Host.Outcome State Fault Refusal) : Host.Outcome State Fault Refusal :=
  if s.dcsrStep then
    match o with
    | .next t => .next (if t.debugMode then t else enterDebug t)
    | .fault f => .fault f
    | .refused r => .refused r
  else o

/-- The outcome of an instruction that makes accesses: its next state, the exception it raises, or the
entry into debug mode. -/
def finish (s : State) (m : Access State) : Host.Outcome State Fault Refusal :=
  match m with
  | .ok t => .next t
  | .raise cause tval => takeException s cause tval
  | .debug => .next (enterDebug s)
  | .refuse r => .refused r

/-! ## Data accesses (20 R150, R151, R153) -/

/-- The width of a data access (20 R155). -/
inductive Size where
  | byte
  | half
  | word
  deriving DecidableEq, Repr

/-- The width in bytes. -/
def Size.bytes : Size → Nat
  | .byte => 1
  | .half => 2
  | .word => 4

/-- Natural alignment (20 R153). -/
def aligned (a : Word) (w : Size) : Bool := a.toNat % w.bytes == 0

/-- The value read where nothing is misaligned and no trigger fires (20 R150, steps 3 and 4). -/
def regionRead (s : State) (a : Word) (w : Size) : Access Word :=
  match regionOf a with
  | .debug => if s.debugMode then .refuse .debugMemory else .raise .loadAccessFault a
  | .reserved => .raise .loadAccessFault a
  | .clic =>
    match clicRead s a.toNat w.bytes with
    | some bs => .ok (ofBytes bs)
    | none => .refuse .clicAddress
  | .sysPort =>
    match backingOf s.platform a.toNat with
    | .ram => .ok (ofBytes (Memory.readBytes s.mem a.toNat w.bytes))
    | .rom => .ok (ofBytes (Memory.readBytes s.mem a.toNat w.bytes))
    | .device => .refuse .platformDevice
    | .error => .raise .loadAccessFault a
    | .errorLate => .raise .loadAccessFault a

/-- `MemRead` (20 R150): the value, zero-extended. -/
def memRead (s : State) (a : Word) (w : Size) : Access Word :=
  (triggerCheck s .load a w.bytes).bind fun _ =>
    if aligned a w then regionRead s a w else .raise .loadAddressMisaligned a

/-- A completed load from the CLIC region: from now on the interrupt logic sees the current values (20 R161). -/
def closeClicWindow (s : State) (a : Word) : State :=
  if regionOf a = .clic then { s with clicOld := [] } else s

/-- A store to RAM, with the replaced bytes kept for fetches that miss it (20 R151, R170). -/
def storeRam (s : State) (a : Nat) (w : Size) (v : Word) : State :=
  { s with
    mem := Memory.writeBytes s.mem a (bytesOf v w.bytes)
    unfenced := ⟨a, Memory.readBytes s.mem a w.bytes⟩ :: s.unfenced }

/-- The store where nothing is misaligned and no trigger fires (20 R151, steps 3 and 4; R161, R163). -/
def regionWrite (s : State) (a : Word) (w : Size) (v : Word) : Access State :=
  match regionOf a with
  | .debug => if s.debugMode then .refuse .debugMemory else .raise .storeAccessFault a
  | .reserved => .raise .storeAccessFault a
  | .clic =>
    match clicWrite s a.toNat (bytesOf v w.bytes) with
    | some t => .ok (openClicWindow s t)
    | none => .refuse .clicAddress
  | .sysPort =>
    match backingOf s.platform a.toNat with
    | .ram => .ok (storeRam s a.toNat w v)
    | .rom => .refuse .romStore
    | .device => .refuse .platformDevice
    | .error => .raise .storeAccessFault a
    | .errorLate => .refuse .storeBusErrorLate

/-- `MemWrite` (20 R151): the state after storing the low bytes of `v`. -/
def memWrite (s : State) (a : Word) (w : Size) (v : Word) : Access State :=
  (triggerCheck s .store a w.bytes).bind fun _ =>
    if aligned a w then regionWrite s a w v else .raise .storeAddressMisaligned a

/-! ## Instruction fetch (20 R136, R152, R170, R172) -/

/-- Does the store behind an entry cover the byte at `a`? -/
def StoreUndo.covers (u : StoreUndo) (a : Nat) : Bool := u.addr ≤ a && a < u.addr + u.old.length

/-- The byte at `a` before the stores `us` (newest first), if it is `b` after them. -/
def byteBefore (us : List StoreUndo) (a : Nat) (b : Byte) : Byte :=
  us.foldl (fun b u => if u.covers a then u.old.getD (a - u.addr) b else b) b

/-- The stores since the last FENCE.I that touched the parcel at `a`. -/
def parcelStores (s : State) (a : Nat) : List StoreUndo :=
  s.unfenced.filter fun u => u.covers a || u.covers (a + 1)

/-- The parcel at `a` as the fetch unit has it: some of the stores since the last FENCE.I may be missing,
each one wholly (20 R172). -/
def parcelAt (s : State) (a : Nat) : BitVec 16 :=
  match parcelStores s a with
  | [] => Memory.read s.mem (a + 1) ++ Memory.read s.mem a
  | us =>
    let missed := us.take (Config.staleParcelDepth s.boundary a % (us.length + 1))
    byteBefore missed (a + 1) (Memory.read s.mem (a + 1)) ++ byteBefore missed a (Memory.read s.mem a)

/-- Fetch one parcel (20 R141 to R144, R152). -/
def fetchParcel (s : State) (a : Word) : Access (BitVec 16) :=
  match regionOf a with
  | .debug => if s.debugMode then .refuse .debugMemory else .raise .instructionAccessFault a
  | .reserved => .raise .instructionAccessFault a
  | .clic => .raise .instructionAccessFault a
  | .sysPort =>
    match backingOf s.platform a.toNat with
    | .ram => .ok (parcelAt s a.toNat)
    | .rom => .ok (parcelAt s a.toNat)
    | .device => .refuse .platformDevice
    | .error => .raise .instructionAccessFault a
    | .errorLate => .raise .instructionAccessFault a

/-- Fetch the second parcel where the first one, `p`, begins a 32-bit instruction (20 R152). -/
def fetchRest (s : State) (p : BitVec 16) : Access Encoded :=
  if parcelIsFull p then
    (triggerCheck s .fetch s.pc 4).bind fun _ =>
      (fetchParcel s (s.pc + 2#32)).bind fun q => .ok (.full (q ++ p))
  else .ok (.half p)

/-- `Fetch(pc)` (20 R152; 60 R430). -/
def fetch (s : State) : Access Encoded :=
  (triggerCheck s .fetch s.pc 2).bind fun _ => (fetchParcel s s.pc).bind (fetchRest s)

/-! ## Illegal instructions (30 R210, R211) -/

/-- TVAL_ILLEGAL for an instruction with these bits (30 R211). -/
def illegalTval (bits : Word) : Word := if Config.tvalIllegalBits then bits else 0#32

/-- Taking the illegal-instruction exception (60 R420). -/
def takeIllegal (s : State) (bits : Word) : Host.Outcome State Fault Refusal :=
  takeException s .illegalInstruction (illegalTval bits)

/-! ## The boundary before an instruction (60 R463; 61 R505, R510) -/

/-- Pass an instruction boundary: the environment drives the wires and advances `mtime`. -/
def passBoundary (s : State) : State :=
  match s.inputs with
  | [] => { s with boundary := s.boundary + 1 }
  | b :: rest =>
    { s with
      boundary := s.boundary + 1
      inputs := rest
      meipWire := b.meip
      lintWires := b.lint
      mtime := s.mtime + BitVec.ofNat 64 b.ticks }

end Sys2Proof.Machine
end

