-- ==== Sys2Proof/Machine/Operands.lean ====
section
/-! DEFINITION. The operand forms of the instructions: sign-extended and zero-extended immediates, shift
amounts, the registers the compressed forms name, effective addresses (spec/30_encoding.md R183 to R189, R201,
R204). -/

namespace Sys2Proof.Machine

/-- An immediate or offset sign-extended to 32 bits (30 R183 to R187, R204; 40 R233). -/
def sext {n : Nat} (imm : BitVec n) : Word := imm.signExtend 32

/-- An unsigned immediate zero-extended to 32 bits (30 R188, R204). -/
def zext {n : Nat} (imm : BitVec n) : Word := imm.setWidth 32

/-- The U-immediate: the upper 20 bits (30 R186). -/
def upperImm (imm20 : BitVec 20) : Word := imm20 ++ 0#12

/-- A shift amount: the low five bits of a register's value (40 R232). -/
def shiftAmount (v : Word) : Nat := (v.extractLsb' 0 5).toNat

/-- The register a three-bit field names: x8 to x15 (30 R201). -/
def cReg (r : CReg) : Reg := 0b01#2 ++ r

/-- x1, the link register of the compressed calls (45 R361). -/
def ra : Reg := 1#5

/-- x2, the stack pointer of the compressed forms (45 R361). -/
def sp : Reg := 2#5

/-- The effective address of a 32-bit load or store (42 R290). -/
def effectiveAddress (s : State) (rs1 : Reg) (imm : BitVec 12) : Word := readReg s rs1 + sext imm

/-- The effective address of C.LW and C.SW (45 R363, R364). -/
def cAddress (s : State) (rs1 : CReg) (uimm : BitVec 7) : Word := readReg s (cReg rs1) + zext uimm

/-- The effective address of C.LWSP and C.SWSP (45 R382, R388). -/
def spAddress (s : State) (uimm : BitVec 8) : Word := readReg s sp + zext uimm

end Sys2Proof.Machine
end

