-- ==== Sys2Proof/Machine/Flags.lean ====
section
/-! DEFINITION. The E20 has no condition codes and no instruction sets a flag (spec/10_state.md R41): a
comparison is a value that a branch uses or that an instruction writes to a register
(spec/40_integer_computational.md R231). -/

namespace Sys2Proof.Machine

/-- Signed less-than (40 R231). -/
def lessSigned (a b : Word) : Bool := a.slt b

/-- Unsigned less-than (40 R231). -/
def lessUnsigned (a b : Word) : Bool := a.ult b

/-- The result of a comparison as a register value, 0 or 1 (40 R237, R248). -/
def boolWord (b : Bool) : Word := if b then 1#32 else 0#32

end Sys2Proof.Machine
end

