-- ==== Sys2Proof/Machine/Alu.lean ====
section
/-! DEFINITION. The integer computational instructions (spec/40_integer_computational.md R234 to R254). -/

namespace Sys2Proof.Machine

/-- The end shared by the instructions that only compute a register: `rd` receives `v` and the instruction, of
`len` bytes, retires. -/
def writeAndRetire (s : State) (rd : Reg) (v len : Word) : Host.Outcome State Fault Refusal :=
  .next (retire (writeReg s rd v) (s.pc + len))

/-! ## Shifts (40 R232) -/

/-- Logical left. -/
def shiftLeft (v : Word) (n : Nat) : Word := v <<< n
/-- Logical right. -/
def shiftRight (v : Word) (n : Nat) : Word := v >>> n
/-- Arithmetic right. -/
def shiftRightArith (v : Word) (n : Nat) : Word := v.sshiftRight n

/-! ## Upper immediates -/

/-- LUI, 40 R234. -/
def execLui (rd : Reg) (imm20 : BitVec 20) (s : State) : Host.Outcome State Fault Refusal :=
  writeAndRetire s rd (upperImm imm20) 4#32

/-- AUIPC, 40 R235. -/
def execAuipc (rd : Reg) (imm20 : BitVec 20) (s : State) : Host.Outcome State Fault Refusal :=
  writeAndRetire s rd (s.pc + upperImm imm20) 4#32

/-! ## Register and immediate -/

/-- ADDI, 40 R236. -/
def execAddi (rd rs1 : Reg) (imm : BitVec 12) (s : State) : Host.Outcome State Fault Refusal :=
  writeAndRetire s rd (readReg s rs1 + sext imm) 4#32

/-- SLTI, 40 R237. -/
def execSlti (rd rs1 : Reg) (imm : BitVec 12) (s : State) : Host.Outcome State Fault Refusal :=
  writeAndRetire s rd (boolWord (lessSigned (readReg s rs1) (sext imm))) 4#32

/-- SLTIU, 40 R238. -/
def execSltiu (rd rs1 : Reg) (imm : BitVec 12) (s : State) : Host.Outcome State Fault Refusal :=
  writeAndRetire s rd (boolWord (lessUnsigned (readReg s rs1) (sext imm))) 4#32

/-- XORI, 40 R239. -/
def execXori (rd rs1 : Reg) (imm : BitVec 12) (s : State) : Host.Outcome State Fault Refusal :=
  writeAndRetire s rd (readReg s rs1 ^^^ sext imm) 4#32

/-- ORI, 40 R240. -/
def execOri (rd rs1 : Reg) (imm : BitVec 12) (s : State) : Host.Outcome State Fault Refusal :=
  writeAndRetire s rd (readReg s rs1 ||| sext imm) 4#32

/-- ANDI, 40 R241. -/
def execAndi (rd rs1 : Reg) (imm : BitVec 12) (s : State) : Host.Outcome State Fault Refusal :=
  writeAndRetire s rd (readReg s rs1 &&& sext imm) 4#32

/-- SLLI, 40 R242. -/
def execSlli (rd rs1 : Reg) (shamt : BitVec 5) (s : State) : Host.Outcome State Fault Refusal :=
  writeAndRetire s rd (shiftLeft (readReg s rs1) shamt.toNat) 4#32

/-- SRLI, 40 R243. -/
def execSrli (rd rs1 : Reg) (shamt : BitVec 5) (s : State) : Host.Outcome State Fault Refusal :=
  writeAndRetire s rd (shiftRight (readReg s rs1) shamt.toNat) 4#32

/-- SRAI, 40 R244. -/
def execSrai (rd rs1 : Reg) (shamt : BitVec 5) (s : State) : Host.Outcome State Fault Refusal :=
  writeAndRetire s rd (shiftRightArith (readReg s rs1) shamt.toNat) 4#32

/-! ## Register and register -/

/-- ADD, 40 R245. -/
def execAdd (rd rs1 rs2 : Reg) (s : State) : Host.Outcome State Fault Refusal :=
  writeAndRetire s rd (readReg s rs1 + readReg s rs2) 4#32

/-- SUB, 40 R246. -/
def execSub (rd rs1 rs2 : Reg) (s : State) : Host.Outcome State Fault Refusal :=
  writeAndRetire s rd (readReg s rs1 - readReg s rs2) 4#32

/-- SLL, 40 R247. -/
def execSll (rd rs1 rs2 : Reg) (s : State) : Host.Outcome State Fault Refusal :=
  writeAndRetire s rd (shiftLeft (readReg s rs1) (shiftAmount (readReg s rs2))) 4#32

/-- SLT, 40 R248. -/
def execSlt (rd rs1 rs2 : Reg) (s : State) : Host.Outcome State Fault Refusal :=
  writeAndRetire s rd (boolWord (lessSigned (readReg s rs1) (readReg s rs2))) 4#32

/-- SLTU, 40 R249. -/
def execSltu (rd rs1 rs2 : Reg) (s : State) : Host.Outcome State Fault Refusal :=
  writeAndRetire s rd (boolWord (lessUnsigned (readReg s rs1) (readReg s rs2))) 4#32

/-- XOR, 40 R250. -/
def execXor (rd rs1 rs2 : Reg) (s : State) : Host.Outcome State Fault Refusal :=
  writeAndRetire s rd (readReg s rs1 ^^^ readReg s rs2) 4#32

/-- SRL, 40 R251. -/
def execSrl (rd rs1 rs2 : Reg) (s : State) : Host.Outcome State Fault Refusal :=
  writeAndRetire s rd (shiftRight (readReg s rs1) (shiftAmount (readReg s rs2))) 4#32

/-- SRA, 40 R252. -/
def execSra (rd rs1 rs2 : Reg) (s : State) : Host.Outcome State Fault Refusal :=
  writeAndRetire s rd (shiftRightArith (readReg s rs1) (shiftAmount (readReg s rs2))) 4#32

/-- OR, 40 R253. -/
def execOr (rd rs1 rs2 : Reg) (s : State) : Host.Outcome State Fault Refusal :=
  writeAndRetire s rd (readReg s rs1 ||| readReg s rs2) 4#32

/-- AND, 40 R254. -/
def execAnd (rd rs1 rs2 : Reg) (s : State) : Host.Outcome State Fault Refusal :=
  writeAndRetire s rd (readReg s rs1 &&& readReg s rs2) 4#32


end Sys2Proof.Machine
end

