-- ==== Sys2Proof/Machine/Control.lean ====
section
/-! DEFINITION. Jumps and conditional branches (spec/41_control_transfer.md R270 to R280). -/

namespace Sys2Proof.Machine

/-- The end shared by the jumps: the link, the address of the next instruction, goes to `rd`, and control goes
to `target` (41 R270, R271). -/
def jumpAndLink (s : State) (rd : Reg) (target len : Word) : Host.Outcome State Fault Refusal :=
  .next (retire (writeReg s rd (s.pc + len)) target)

/-- The end shared by the branches: to `pc + offset` if the condition holds, else to the next instruction
(41 R270). -/
def branch (s : State) (condition : Bool) (offset len : Word) : Host.Outcome State Fault Refusal :=
  .next (retire s (if condition then s.pc + offset else s.pc + len))

/-- JAL, 41 R273. -/
def execJal (rd : Reg) (offset : BitVec 21) (s : State) : Host.Outcome State Fault Refusal :=
  jumpAndLink s rd (s.pc + sext offset) 4#32

/-- JALR, 41 R274. -/
def execJalr (rd rs1 : Reg) (imm : BitVec 12) (s : State) : Host.Outcome State Fault Refusal :=
  jumpAndLink s rd (clearBit0 (readReg s rs1 + sext imm)) 4#32

/-- BEQ, 41 R275. -/
def execBeq (rs1 rs2 : Reg) (offset : BitVec 13) (s : State) : Host.Outcome State Fault Refusal :=
  branch s (readReg s rs1 == readReg s rs2) (sext offset) 4#32

/-- BNE, 41 R276. -/
def execBne (rs1 rs2 : Reg) (offset : BitVec 13) (s : State) : Host.Outcome State Fault Refusal :=
  branch s (readReg s rs1 != readReg s rs2) (sext offset) 4#32

/-- BLT, 41 R277. -/
def execBlt (rs1 rs2 : Reg) (offset : BitVec 13) (s : State) : Host.Outcome State Fault Refusal :=
  branch s (lessSigned (readReg s rs1) (readReg s rs2)) (sext offset) 4#32

/-- BGE, 41 R278. -/
def execBge (rs1 rs2 : Reg) (offset : BitVec 13) (s : State) : Host.Outcome State Fault Refusal :=
  branch s (!lessSigned (readReg s rs1) (readReg s rs2)) (sext offset) 4#32

/-- BLTU, 41 R279. -/
def execBltu (rs1 rs2 : Reg) (offset : BitVec 13) (s : State) : Host.Outcome State Fault Refusal :=
  branch s (lessUnsigned (readReg s rs1) (readReg s rs2)) (sext offset) 4#32

/-- BGEU, 41 R280. -/
def execBgeu (rs1 rs2 : Reg) (offset : BitVec 13) (s : State) : Host.Outcome State Fault Refusal :=
  branch s (!lessUnsigned (readReg s rs1) (readReg s rs2)) (sext offset) 4#32


end Sys2Proof.Machine
end

