-- ==== Sys2Proof/Machine/LoadStore.lean ====
section
/-! DEFINITION. Loads and stores (spec/42_load_store.md R290 to R302). -/

namespace Sys2Proof.Machine

/-- Sign-extension of the byte a load read (42 R295). -/
def signedByte (v : Word) : Word := (v.extractLsb' 0 8).signExtend 32
/-- Sign-extension of the halfword a load read (42 R296). -/
def signedHalf (v : Word) : Word := (v.extractLsb' 0 16).signExtend 32

/-- A load of the value at `a`, extended by `ext`, into `rd` (42 R290 to R299). -/
def loadTo (s : State) (rd : Reg) (a : Word) (w : Size) (ext : Word → Word) (len : Word) :
    Host.Outcome State Fault Refusal :=
  finish s ((memRead s a w).bind fun v =>
    .ok (retire (writeReg (closeClicWindow s a) rd (ext v)) (s.pc + len)))

/-- A store of the low bytes of `v` at `a` (42 R300 to R302). -/
def storeFrom (s : State) (a : Word) (w : Size) (v len : Word) : Host.Outcome State Fault Refusal :=
  finish s ((memWrite s a w v).bind fun t => .ok (retire t (s.pc + len)))

/-- LB, 42 R295. -/
def execLb (rd rs1 : Reg) (imm : BitVec 12) (s : State) : Host.Outcome State Fault Refusal :=
  loadTo s rd (effectiveAddress s rs1 imm) .byte signedByte 4#32

/-- LH, 42 R296. -/
def execLh (rd rs1 : Reg) (imm : BitVec 12) (s : State) : Host.Outcome State Fault Refusal :=
  loadTo s rd (effectiveAddress s rs1 imm) .half signedHalf 4#32

/-- LW, 42 R297. -/
def execLw (rd rs1 : Reg) (imm : BitVec 12) (s : State) : Host.Outcome State Fault Refusal :=
  loadTo s rd (effectiveAddress s rs1 imm) .word id 4#32

/-- LBU, 42 R298. -/
def execLbu (rd rs1 : Reg) (imm : BitVec 12) (s : State) : Host.Outcome State Fault Refusal :=
  loadTo s rd (effectiveAddress s rs1 imm) .byte id 4#32

/-- LHU, 42 R299. -/
def execLhu (rd rs1 : Reg) (imm : BitVec 12) (s : State) : Host.Outcome State Fault Refusal :=
  loadTo s rd (effectiveAddress s rs1 imm) .half id 4#32

/-- SB, 42 R300. -/
def execSb (rs2 rs1 : Reg) (imm : BitVec 12) (s : State) : Host.Outcome State Fault Refusal :=
  storeFrom s (effectiveAddress s rs1 imm) .byte (readReg s rs2) 4#32

/-- SH, 42 R301. -/
def execSh (rs2 rs1 : Reg) (imm : BitVec 12) (s : State) : Host.Outcome State Fault Refusal :=
  storeFrom s (effectiveAddress s rs1 imm) .half (readReg s rs2) 4#32

/-- SW, 42 R302. -/
def execSw (rs2 rs1 : Reg) (imm : BitVec 12) (s : State) : Host.Outcome State Fault Refusal :=
  storeFrom s (effectiveAddress s rs1 imm) .word (readReg s rs2) 4#32


end Sys2Proof.Machine
end

