-- ==== Sys2Proof/Machine/Csr.lean ====
section
/-! DEFINITION. The control and status registers: which address names which register, what each one reads, what
a write to it changes, `mnxti`, and the shared operation of the six CSR instructions (spec/10_state.md R50 to
R105; spec/43_system_and_csr.md R320 to R329; spec/60_exceptions.md R475, R476). -/

namespace Sys2Proof.Machine

/-! ## Names and addresses (10 R51) -/

/-- The CSRs of the E20. -/
inductive Csr where
  | mstatus | misa | mie | mtvec | mtvt | mscratch | mepc | mcause | mtval | mip | mnxti | mintstatus
  | mcycle | mcycleh | minstret | minstreth
  /-- the hardware performance monitor registers, all reading 0 (10 R93) -/
  | hpm
  | cycle | cycleh | instret | instreth
  | mvendorid | marchid | mimpid | mhartid
  | tselect | tdata1 | tdata2 | tdata3
  | dcsr | dpc | dscratch
  /-- an address whose presence the spec leaves open (10 R86, R94, R95, R105) -/
  | unknown
  deriving DecidableEq, Repr

/-- The CSR at an address; `none` where none exists (10 R51, R52).  The CLIC addresses 0x307, 0x345 and 0x346
are those of the CLIC draft that R51 names. -/
def csrOf (a : BitVec 12) : Option Csr :=
  if a = 0x300#12 then some .mstatus
  else if a = 0x301#12 then some .misa
  else if a = 0x304#12 then some .mie
  else if a = 0x305#12 then some .mtvec
  else if a = 0x307#12 then some .mtvt
  else if a = 0x340#12 then some .mscratch
  else if a = 0x341#12 then some .mepc
  else if a = 0x342#12 then some .mcause
  else if a = 0x343#12 then some .mtval
  else if a = 0x344#12 then some .mip
  else if a = 0x345#12 then some .mnxti
  else if a = 0x346#12 then some .mintstatus
  else if a = 0xB00#12 then some .mcycle
  else if a = 0xB80#12 then some .mcycleh
  else if a = 0xB02#12 then some .minstret
  else if a = 0xB82#12 then some .minstreth
  else if 0xB03#12 ≤ a ∧ a ≤ 0xB1F#12 then some .hpm
  else if 0xB83#12 ≤ a ∧ a ≤ 0xB9F#12 then some .hpm
  else if 0x323#12 ≤ a ∧ a ≤ 0x33F#12 then some .hpm
  else if a = 0xC00#12 then some .cycle
  else if a = 0xC80#12 then some .cycleh
  else if a = 0xC02#12 then some .instret
  else if a = 0xC82#12 then some .instreth
  else if a = 0xF11#12 then some .mvendorid
  else if a = 0xF12#12 then some .marchid
  else if a = 0xF13#12 then some .mimpid
  else if a = 0xF14#12 then some .mhartid
  else if a = 0x7A0#12 then some .tselect
  else if a = 0x7A1#12 then some .tdata1
  else if a = 0x7A2#12 then some .tdata2
  else if a = 0x7A3#12 then some .tdata3
  else if a = 0x7B0#12 then some .dcsr
  else if a = 0x7B1#12 then some .dpc
  else if a = 0x7B2#12 then some .dscratch
  else if a = 0x348#12 ∨ a = 0x349#12 then some .unknown
  else if a = 0xC01#12 ∨ a = 0xC81#12 then some .unknown
  else if a = 0x306#12 ∨ a = 0x320#12 then some .unknown
  else if 0x3A0#12 ≤ a ∧ a ≤ 0x3A3#12 then some .unknown
  else if 0x3B0#12 ≤ a ∧ a ≤ 0x3BF#12 then some .unknown
  else none

/-! ## Reading -/

/-- A bit at a place of a register. -/
def bitAt (b : Bool) (i : Nat) : Word := if b then 1#32 <<< i else 0#32

/-- The clock cycles drawn for the boundaries before boundary `k` (10 R92). -/
def cyclesBefore : Nat → Nat
  | 0 => 0
  | k + 1 => cyclesBefore k + Config.cyclesInStep k

/-- The 64 bits of `mcycle` (10 R90, R92). -/
def cycleCount (s : State) : BitVec 64 := s.mcycleBase + BitVec.ofNat 64 (cyclesBefore s.boundary)

/-- `mstatus`: MPP reads 0b11, all bits but MPIE and MIE are constant (10 R60 to R62). -/
def mstatusRead (s : State) : Word := 0x1800#32 ||| bitAt s.mstatusMpie 7 ||| bitAt s.mstatusMie 3

/-- `mie`, zero in CLIC mode (10 R66). -/
def mieRead (s : State) : Word :=
  if clicMode s then 0#32 else bitAt s.mieMsie 3 ||| bitAt s.mieMtie 7 ||| bitAt s.mieMeie 11

/-- `mip`, zero in CLIC mode (10 R67). -/
def mipRead (s : State) : Word :=
  if clicMode s then 0#32
  else bitAt (pendingNow s 3) 3 ||| bitAt (pendingNow s 7) 7 ||| bitAt (pendingNow s 11) 11

/-- `mtvec`: bits [5:2] read back a free value once a non-zero value was written to them (10 R68, R69). -/
def mtvecRead (s : State) : Word :=
  if s.mtvec.extractLsb' 2 4 = 0#4 then s.mtvec
  else s.mtvec.extractLsb' 6 26 ++ Config.mtvecLowRead s.boundary ++ s.mtvec.extractLsb' 0 2

/-- `mtvt`: bits [5:0] read back a free value once a non-zero value was written to them (10 R70). -/
def mtvtRead (s : State) : Word :=
  if s.mtvt.extractLsb' 0 6 = 0#6 then s.mtvt
  else s.mtvt.extractLsb' 6 26 ++ Config.mtvtLowRead s.boundary

/-- The exception codes that can be written to `mcause` and read back (60 R420, R421; 10 R73). -/
def legalCause (p : Params) (interrupt : Bool) (code : BitVec 10) : Bool :=
  if interrupt then implementedId p code.toNat else code.toNat ≤ 7 || code.toNat == 11

/-- Does `mcause` hold a legal cause, so that it can be read and MRET can be taken on it (10 R73; 93 U2)? -/
def causeLegal (s : State) : Bool := legalCause s.params s.mcauseInterrupt s.mcauseCode

/-- The image of a saved level in `mcause[27:24]` (10 R75). -/
def mpilImageOf (level : Level) : BitVec 4 := Config.mpilImage (level.extractLsb' 4 4)

/-- The levels the E20 can produce (10 R75). -/
def legalLevel (level : Level) : Bool :=
  level == 0#8 || level == 63#8 || level == 127#8 || level == 191#8 || level == 255#8

/-- The level whose image is `b`, if one of the E20's levels has it (10 R75). -/
def levelOfImage (b : BitVec 4) : Option Level :=
  let top := Config.mpilImage.symm b
  if top = 0#4 then some 0#8
  else if top = 3#4 then some 63#8
  else if top = 7#4 then some 127#8
  else if top = 11#4 then some 191#8
  else if top = 15#4 then some 255#8
  else none

/-- The record that the image of this saved level has been read (10 R75). -/
def seenBit (level : Level) : BitVec 16 := 1#16 <<< (level.extractLsb' 4 4).toNat

/-- The state once an instruction has read `mcause`: in CLIC mode the image of the saved level is then one that a
program may write back (10 R75); with an illegal cause the read has no meaning (93 U2). -/
def mcauseReadPart (s : State) : Except Refusal State :=
  if causeLegal s then
    .ok (if clicMode s then { s with mpilSeen := s.mpilSeen ||| seenBit s.mcauseMpil } else s)
  else .error .mcauseCodeIllegal

/-- `mcause` (10 R73 to R76).  It is read only while the cause is legal (`mcauseReadPart`). -/
def mcauseRead (s : State) : Word :=
  if clicMode s then
    BitVec.ofBool s.mcauseInterrupt ++ BitVec.ofBool s.mcauseMinhv ++ 0b11#2 ++ mpilImageOf s.mcauseMpil
      ++ BitVec.ofBool s.mstatusMpie ++ 0#13 ++ s.mcauseCode
  else BitVec.ofBool s.mcauseInterrupt ++ 0#21 ++ s.mcauseCode

/-- The trigger that `tselect` selects (10 R100). -/
def selectedTrigger (s : State) : Trigger := s.triggers.get s.tselect.toFin

/-- `tdata1`, that is `mcontrol` (10 R101): type 2, `dmode`, maskmax 4, select, timing and sizelo 0, action,
chain, match, M, S, U, X, W, R. -/
def mcontrolRead (t : Trigger) : Word :=
  0b0010#4 ++ BitVec.ofBool t.dmode ++ 0b000100#6 ++ 0#1 ++ 0#1 ++ 0#1 ++ 0#2
    ++ (0#3 ++ BitVec.ofBool t.actionDebug) ++ BitVec.ofBool t.chain ++ (0#2 ++ t.matchType)
    ++ BitVec.ofBool t.m ++ 0#1 ++ BitVec.ofBool t.sv ++ BitVec.ofBool t.u
    ++ BitVec.ofBool t.x ++ BitVec.ofBool t.w ++ BitVec.ofBool t.r

/-- What a CSR reads.  `mnxti` has its own rule (`mnxtiAccess`); `dcsr` and the unknown CSRs are refused before
they are read. -/
def csrRead (s : State) : Csr → Word
  | .mstatus => mstatusRead s
  | .misa => if s.params.misaZero then 0#32 else 0x40001104#32
  | .mie => mieRead s
  | .mtvec => mtvecRead s
  | .mtvt => mtvtRead s
  | .mscratch => s.mscratch
  | .mepc => s.mepc
  | .mcause => mcauseRead s
  | .mtval => s.mtval
  | .mip => mipRead s
  | .mnxti => 0#32
  | .mintstatus => s.mil ++ 0#24
  | .mcycle => (cycleCount s).extractLsb' 0 32
  | .mcycleh => (cycleCount s).extractLsb' 32 32
  | .minstret => s.minstret.extractLsb' 0 32
  | .minstreth => s.minstret.extractLsb' 32 32
  | .hpm => 0#32
  | .cycle => (cycleCount s).extractLsb' 0 32
  | .cycleh => (cycleCount s).extractLsb' 32 32
  | .instret => s.minstret.extractLsb' 0 32
  | .instreth => s.minstret.extractLsb' 32 32
  | .mvendorid => Config.mvendorid
  | .marchid => Config.marchid
  | .mimpid => Config.mimpid
  | .mhartid => 0#32
  | .tselect => s.tselect.setWidth 32
  | .tdata1 => mcontrolRead (selectedTrigger s)
  | .tdata2 => (selectedTrigger s).tdata2
  | .tdata3 => Config.tdata3Read s.boundary
  | .dcsr => 0#32
  | .dpc => s.dpc
  | .dscratch => s.dscratch
  | .unknown => 0#32

/-! ## Writing -/

/-- `mtvec`: every MODE is supported; leaving the CLIC modes makes `mie` free (10 R66, R68; 43 R329; 70 R603). -/
def mtvecWrite (s : State) (v : Word) : Except Refusal State :=
  if clicMode s = v.getLsbD 1 then .ok { s with mtvec := v }
  else if s.mstatusMie then .error .modeSwitchWithMie
  else if clicMode s then
    .ok { s with
      mtvec := v
      mieMsie := (Config.mieAfterClic s.boundary).getLsbD 0
      mieMtie := (Config.mieAfterClic s.boundary).getLsbD 1
      mieMeie := (Config.mieAfterClic s.boundary).getLsbD 2 }
  else .ok { s with mtvec := v }

/-- The level that a write of the image `b` restores: that of a level of the E20 whose image has been read
(10 R75).  That a value counts as read once its image has been, by whatever instruction:
DESIGN CHOICE, notes/assumptions/10.md. -/
def restoredLevel (s : State) (b : BitVec 4) : Option Level :=
  match levelOfImage b with
  | some level => if s.mpilSeen &&& seenBit level = 0#16 then none else some level
  | none => none

/-- `mcause`: the upper fields exist in CLIC mode only; `mpp` is hard-wired (10 R73 to R76). -/
def mcauseWrite (s : State) (v : Word) : Except Refusal State :=
  if clicMode s then
    if v.getLsbD 30 then .error .minhvWrite
    else
      match restoredLevel s (v.extractLsb' 24 4) with
      | some level =>
        .ok { s with
          mcauseInterrupt := v.getLsbD 31
          mcauseMinhv := false
          mcauseMpil := level
          mstatusMpie := v.getLsbD 23
          mcauseCode := v.extractLsb' 0 10 }
      | none => .error .mpilImageUnknown
  else .ok { s with mcauseInterrupt := v.getLsbD 31, mcauseCode := v.extractLsb' 0 10 }

/-- `tdata1` of one trigger: `match` above 3 leaves a supported value (62 R553), U and S are WARL bits
(62 R552). -/
def mcontrolWrite (s : State) (t : Trigger) (v : Word) : Trigger :=
  { t with
    r := v.getLsbD 0
    w := v.getLsbD 1
    x := v.getLsbD 2
    u := v.getLsbD 3 && Config.mcontrolKeepsU
    sv := v.getLsbD 4 && Config.mcontrolKeepsS
    m := v.getLsbD 6
    matchType := if v.extractLsb' 9 2 = 0#2 then v.extractLsb' 7 2 else Config.matchLegal s.boundary
    chain := v.getLsbD 11
    actionDebug := v.getLsbD 12
    dmode := v.getLsbD 27 }

/-- Replace the selected trigger. -/
def setTrigger (s : State) (t : Trigger) : State :=
  { s with triggers := s.triggers.set s.tselect.toNat t s.tselect.isLt }

/-- A write of `tdata1` (62 R556, R558).  In debug mode `dmode` and `action` 0 or 1 can be written (10 R101). -/
def tdata1Write (s : State) (v : Word) : Except Refusal State :=
  if v.extractLsb' 13 3 ≠ 0#3 ∨ (!s.debugMode && (v.getLsbD 12 || v.getLsbD 27)) then
    .error .triggerActionOrDmodeWrite
  else if s.tselect = 3#2 ∧ v.getLsbD 11 then .error .triggerChainLast
  else .ok (setTrigger s (mcontrolWrite s (selectedTrigger s) v))

/-- A write of a CSR.  Read-only fields and registers ignore it (43 R327); the read-only addresses are
illegal before they come here. -/
def csrWrite (s : State) (v : Word) : Csr → Except Refusal State
  | .mstatus => .ok { s with mstatusMie := v.getLsbD 3, mstatusMpie := v.getLsbD 7 }
  | .misa => .ok s
  | .mie =>
    if clicMode s then .ok s
    else .ok { s with mieMsie := v.getLsbD 3, mieMtie := v.getLsbD 7, mieMeie := v.getLsbD 11 }
  | .mtvec => mtvecWrite s v
  | .mtvt => .ok { s with mtvt := v }
  | .mscratch => .ok { s with mscratch := v }
  | .mepc => .ok { s with mepc := clearBit0 v }
  | .mcause => mcauseWrite s v
  | .mtval => .ok { s with mtval := v }
  | .mip => .ok s
  | .mnxti => .ok s
  | .mintstatus => .ok s
  | .mcycle =>
    .ok { s with
      mcycleBase := ((cycleCount s).extractLsb' 32 32 ++ v) - BitVec.ofNat 64 (cyclesBefore s.boundary) }
  | .mcycleh =>
    .ok { s with
      mcycleBase := (v ++ (cycleCount s).extractLsb' 0 32) - BitVec.ofNat 64 (cyclesBefore s.boundary) }
  | .minstret => .ok { s with minstret := s.minstret.extractLsb' 32 32 ++ v }
  | .minstreth => .ok { s with minstret := v ++ s.minstret.extractLsb' 0 32 }
  | .hpm => .ok s
  | .cycle => .ok s
  | .cycleh => .ok s
  | .instret => .ok s
  | .instreth => .ok s
  | .mvendorid => .ok s
  | .marchid => .ok s
  | .mimpid => .ok s
  | .mhartid => .ok s
  | .tselect => .ok { s with tselect := if v < 4#32 then v.setWidth 2 else Config.tselectLegal s.boundary }
  | .tdata1 => tdata1Write s v
  | .tdata2 => .ok (setTrigger s { selectedTrigger s with tdata2 := v })
  | .tdata3 => .ok s
  | .dcsr => .error .dcsrLayout
  | .dpc => .ok { s with dpc := clearBit0 v }
  | .dscratch => .ok { s with dscratch := v }
  | .unknown => .error .csrPresenceUnknown

/-! ## The CSR instructions -/

/-- How a CSR instruction combines the old value with its operand. -/
inductive CsrOp where
  | write
  | set
  | clear
  deriving DecidableEq, Repr

/-- The value written (43 R320 to R325). -/
def CsrOp.apply (op : CsrOp) (old operand : Word) : Word :=
  match op with
  | .write => operand
  | .set => old ||| operand
  | .clear => old &&& ~~~operand

/-- One CSR instruction: what it names, its operand's value, and whether it counts as a write (43 R326). -/
structure CsrAccess where
  op : CsrOp
  csr : BitVec 12
  rd : Reg
  operand : Word
  writes : Bool
  /-- does it carry an immediate (43 R323 to R325)? -/
  immediate : Bool
  /-- the instruction's bits, for `mtval` -/
  bits : Word

/-- The result of the checks made before any effect (43 R327). -/
inductive CsrCheck where
  | illegal
  | refuse (r : Refusal)
  | access (c : Csr)
  deriving DecidableEq, Repr

/-- Is the CSR one of the registers of the selected trigger (10 R101)? -/
def isTdata (c : Csr) : Bool := c == .tdata1 || c == .tdata2 || c == .tdata3

/-- Is the CSR accessible in debug mode only (10 R104)? -/
def isDebugOnly (c : Csr) : Bool := c == .dcsr || c == .dpc || c == .dscratch

/-- The checks, in the order of 43 R327; the CSRs whose presence is unknown are refused where no check
makes the access illegal whether they exist or not. -/
def csrCheck (s : State) (a : BitVec 12) (writes : Bool) : CsrCheck :=
  match csrOf a with
  | none => .illegal
  | some c =>
    if isDebugOnly c && !s.debugMode then .illegal
    else if writes && a.extractLsb' 10 2 == 0b11#2 then .illegal
    else if isTdata c && (selectedTrigger s).dmode && !s.debugMode then .illegal
    else if c = .unknown then .refuse .csrPresenceUnknown
    else if c = .dcsr then .refuse .dcsrLayout
    else .access c

/-- The `mstatus` update of a writing access to `mnxti` (60 R475). -/
def mnxtiStatus (s : State) (op : CsrOp) (operand : Word) : State :=
  { s with
    mstatusMie := (op.apply (mstatusRead s) operand).getLsbD 3
    mstatusMpie := (op.apply (mstatusRead s) operand).getLsbD 7 }

/-- The interrupt that `mnxti` offers: the winner, if its level is above `mpil` (60 R475, R476 (c);
61 R520). -/
def mnxtiOffer (s : State) : Except Refusal (Option Nat) :=
  match winner s with
  | none => .ok none
  | some w =>
    if 2#4 < nlbitsSeen s then .error .nlbitsTooLarge
    else if hardwareVectored s w then .error .mnxtiVectored
    else if s.mcauseMpil < levelSeen s w then
      (if s.mtvt.extractLsb' 0 6 = 0#6 then .ok (some w) else .error .mtvtUnaligned)
    else .ok none

/-- The commit of a writing access to servicing interrupt `w` (60 R475). -/
def mnxtiCommit (s : State) (w : Nat) : State :=
  { s with mil := levelSeen s w, mcauseCode := BitVec.ofNat 10 w, mcauseInterrupt := true }

/-- Is the form of the access one that `mnxti` admits (60 R476 (a))?  CSRRC with `rs1` = x0, which R476 does not
name, is taken as the plain read that CSRRS with `rs1` = x0 is: DESIGN CHOICE, notes/assumptions/23.md. -/
def mnxtiFormOk (i : CsrAccess) : Bool :=
  match i.op with
  | .write => false
  | .set => i.immediate || !i.writes
  | .clear => i.immediate || !i.writes

/-- An access to `mnxti` (60 R475, R476). -/
def mnxtiAccess (s : State) (i : CsrAccess) : Host.Outcome State Fault Refusal :=
  if mnxtiFormOk i then
    if clicMode s then
      match mnxtiOffer s with
      | .error r => .refused r
      | .ok offer =>
        let t := if i.writes then mnxtiStatus s i.op i.operand else s
        match offer with
        | none => .next (retire (writeReg t i.rd 0#32) (s.pc + 4#32))
        | some w =>
          let t' := if i.writes then mnxtiCommit t w else t
          .next (retire (writeReg t' i.rd (tableEntry s w)) (s.pc + 4#32))
    else .refused .mnxtiNonClic
  else .refused .mnxtiForm

/-- Does the instruction read the CSR?  All do but CSRRW and CSRRWI with destination x0 (43 R326). -/
def CsrAccess.reads (i : CsrAccess) : Bool := i.op != .write || i.rd != 0#5

/-- The state after the read part: only reads of `mcause` leave a trace. -/
def csrReadPart (s : State) (i : CsrAccess) (c : Csr) : Except Refusal State :=
  if c = .mcause ∧ i.reads then mcauseReadPart s else .ok s

/-- The state after the read part and the write part. -/
def csrUpdate (s : State) (i : CsrAccess) (c : Csr) : Except Refusal State :=
  match csrReadPart s i c with
  | .error r => .error r
  | .ok t => if i.writes then csrWrite t (i.op.apply (csrRead s c) i.operand) c else .ok t

/-- Is the CSR a half of the retired-instruction counter? -/
def isMinstret (c : Csr) : Bool := c == .minstret || c == .minstreth

/-- The end of a CSR instruction: one that wrote `minstret` is not followed by the increment (10 R92). -/
def csrRetire (t : State) (i : CsrAccess) (c : Csr) (next : Word) : State :=
  if i.writes && isMinstret c then { t with pc := next } else retire t next

/-- The shared operation of the six CSR instructions (43 R320 to R328). -/
def csrInstruction (s : State) (i : CsrAccess) : Host.Outcome State Fault Refusal :=
  match csrCheck s i.csr i.writes with
  | .illegal => takeIllegal s i.bits
  | .refuse r => .refused r
  | .access c =>
    if c = .mnxti then mnxtiAccess s i
    else
      match csrUpdate s i c with
      | .error r => .refused r
      | .ok t => .next (csrRetire (writeReg t i.rd (csrRead s c)) i c (s.pc + 4#32))

end Sys2Proof.Machine
end

