-- ==== Sys2Proof/Machine/System.lean ====
section
/-! DEFINITION. Fences, environment calls, privileged and CSR instructions (spec/43_system_and_csr.md R310 to R325). -/

namespace Sys2Proof.Machine

/-- Retire a 32-bit instruction that writes no register. -/
def retireNext (s : State) : Host.Outcome State Fault Refusal := .next (retire s (s.pc + 4#32))

/-- TVAL_EBREAK (43 R313). -/
def ebreakTval (s : State) : Word := if Config.tvalEbreakPc then s.pc else 0#32

/-- EBREAK and C.EBREAK: into debug mode if `dcsr.ebreakm` is set, else the breakpoint exception (43 R313;
62 R572).  R572 speaks of machine mode; that they do the same in debug mode is a DESIGN CHOICE,
notes/assumptions/6.md. -/
def takeBreakpoint (s : State) : Host.Outcome State Fault Refusal :=
  if s.dcsrEbreakm then .next (enterDebug s) else takeException s .breakpoint (ebreakTval s)

/-- FENCE, a no-op that retires whatever its fields hold (43 R310; 20 R165). -/
def execFence (_fm _pred _succ : BitVec 4) (_rs1 _rd : Reg) (s : State) : Host.Outcome State Fault Refusal :=
  retireNext s

/-- FENCE.I: what was fetched ahead is discarded, so that later fetches see all earlier stores (43 R311;
20 R172). -/
def execFenceI (_imm : BitVec 12) (_rs1 _rd : Reg) (s : State) : Host.Outcome State Fault Refusal :=
  .next (retire { s with unfenced := [] } (s.pc + 4#32))

/-- ECALL, 43 R312. -/
def execEcall (s : State) : Host.Outcome State Fault Refusal := takeException s .environmentCallFromM 0#32

/-- EBREAK, 43 R313. -/
def execEbreak (s : State) : Host.Outcome State Fault Refusal := takeBreakpoint s

/-- MRET, 43 R316; with `minhv` = 1 (60 R449), or on an illegal cause written to `mcause` (93 U2), the spec gives
it no meaning. -/
def execMret (s : State) : Host.Outcome State Fault Refusal :=
  if clicMode s && s.mcauseMinhv then .refused .mretMinhv
  else if causeLegal s then .next (retire (trapReturn s) s.mepc)
  else .refused .mcauseCodeIllegal

/-- Does WFI retire now?  It must once a wake-up condition holds, else it may or may not (43 R317); under a
debugger it does not wait (notes/assumptions/13.md). -/
def wfiRetires (s : State) : Bool := wakeUp s || s.debugMode || s.dcsrStep || !Config.wfiStays s.boundary

/-- The state after WFI: retired, or stalled at the same pc. -/
def afterWfi (s : State) : State :=
  if wfiRetires s then retire { s with waiting := false } (s.pc + 4#32) else { s with waiting := true }

/-- WFI, 43 R317. -/
def execWfi (s : State) : Host.Outcome State Fault Refusal := .next (afterWfi s)

/-- A step of a hart stalled in WFI: it stays, or retires, and the interrupt that woke it is then taken if it can
be, with the following instruction in `mepc` (43 R317; 60 R483). -/
def resumeWfi (s : State) : Host.Outcome State Fault Refusal :=
  if wfiRetires s then
    match interruptDecision (afterWfi s) with
    | .take id => takeInterrupt (afterWfi s) id
    | .refuse r => .refused r
    | .noInterrupt => .next (afterWfi s)
  else .next (afterWfi s)

/-- DRET: illegal outside debug mode, in it the return to `dpc` (43 R318; 62 R570, R571). -/
def execDret (s : State) : Host.Outcome State Fault Refusal :=
  if s.debugMode then .next { s with pc := clearBit0 s.dpc, debugMode := false }
  else takeIllegal s (encode .dret).bits

/-- CSRRW, 43 R320. -/
def execCsrrw (rd rs1 : Reg) (csr : BitVec 12) (s : State) : Host.Outcome State Fault Refusal :=
  csrInstruction s ⟨.write, csr, rd, readReg s rs1, true, false, (encode (.csrrw rd rs1 csr)).bits⟩

/-- CSRRS, 43 R321. -/
def execCsrrs (rd rs1 : Reg) (csr : BitVec 12) (s : State) : Host.Outcome State Fault Refusal :=
  csrInstruction s ⟨.set, csr, rd, readReg s rs1, (rs1 != 0#5), false, (encode (.csrrs rd rs1 csr)).bits⟩

/-- CSRRC, 43 R322. -/
def execCsrrc (rd rs1 : Reg) (csr : BitVec 12) (s : State) : Host.Outcome State Fault Refusal :=
  csrInstruction s ⟨.clear, csr, rd, readReg s rs1, (rs1 != 0#5), false, (encode (.csrrc rd rs1 csr)).bits⟩

/-- CSRRWI, 43 R323. -/
def execCsrrwi (rd : Reg) (uimm : BitVec 5) (csr : BitVec 12) (s : State) : Host.Outcome State Fault Refusal :=
  csrInstruction s ⟨.write, csr, rd, zext uimm, true, true, (encode (.csrrwi rd uimm csr)).bits⟩

/-- CSRRSI, 43 R324. -/
def execCsrrsi (rd : Reg) (uimm : BitVec 5) (csr : BitVec 12) (s : State) : Host.Outcome State Fault Refusal :=
  csrInstruction s ⟨.set, csr, rd, zext uimm, (uimm != 0#5), true, (encode (.csrrsi rd uimm csr)).bits⟩

/-- CSRRCI, 43 R325. -/
def execCsrrci (rd : Reg) (uimm : BitVec 5) (csr : BitVec 12) (s : State) : Host.Outcome State Fault Refusal :=
  csrInstruction s ⟨.clear, csr, rd, zext uimm, (uimm != 0#5), true, (encode (.csrrci rd uimm csr)).bits⟩


end Sys2Proof.Machine
end

