-- ==== Sys2Proof/Machine/Compressed.lean ====
section
/-! DEFINITION. The 16-bit instructions (spec/45_c_extension.md R360 to R389): each is its expansion with a length of two bytes. -/

namespace Sys2Proof.Machine

/-- C.ILLEGAL, the all-zero halfword, 45 R389. -/
def execCIllegal  (s : State) : Host.Outcome State Fault Refusal :=
  takeIllegal s (encode .cIllegal).bits

/-- C.ADDI4SPN, 45 R362. -/
def execCAddi4spn (rd : CReg) (nzuimm : BitVec 10) (s : State) : Host.Outcome State Fault Refusal :=
  writeAndRetire s (cReg rd) (readReg s sp + zext nzuimm) 2#32

/-- C.LW, 45 R363. -/
def execCLw (rd rs1 : CReg) (uimm : BitVec 7) (s : State) : Host.Outcome State Fault Refusal :=
  loadTo s (cReg rd) (cAddress s rs1 uimm) .word id 2#32

/-- C.SW, 45 R364. -/
def execCSw (rs2 rs1 : CReg) (uimm : BitVec 7) (s : State) : Host.Outcome State Fault Refusal :=
  storeFrom s (cAddress s rs1 uimm) .word (readReg s (cReg rs2)) 2#32

/-- C.NOP and its hints, 45 R365. -/
def execCNop (_imm : BitVec 6) (s : State) : Host.Outcome State Fault Refusal :=
  .next (retire s (s.pc + 2#32))

/-- C.ADDI, 45 R366. -/
def execCAddi (rd : Reg) (imm : BitVec 6) (s : State) : Host.Outcome State Fault Refusal :=
  writeAndRetire s rd (readReg s rd + sext imm) 2#32

/-- C.JAL, 45 R367. -/
def execCJal (offset : BitVec 12) (s : State) : Host.Outcome State Fault Refusal :=
  jumpAndLink s ra (s.pc + sext offset) 2#32

/-- C.LI, 45 R368. -/
def execCLi (rd : Reg) (imm : BitVec 6) (s : State) : Host.Outcome State Fault Refusal :=
  writeAndRetire s rd (sext imm) 2#32

/-- C.ADDI16SP, 45 R369. -/
def execCAddi16sp (nzimm : BitVec 10) (s : State) : Host.Outcome State Fault Refusal :=
  writeAndRetire s sp (readReg s sp + sext nzimm) 2#32

/-- C.LUI, 45 R370. -/
def execCLui (rd : Reg) (nzimm : BitVec 18) (s : State) : Host.Outcome State Fault Refusal :=
  writeAndRetire s rd (sext nzimm) 2#32

/-- C.SRLI, 45 R371. -/
def execCSrli (rd : CReg) (shamt : BitVec 5) (s : State) : Host.Outcome State Fault Refusal :=
  writeAndRetire s (cReg rd) (shiftRight (readReg s (cReg rd)) shamt.toNat) 2#32

/-- C.SRAI, 45 R372. -/
def execCSrai (rd : CReg) (shamt : BitVec 5) (s : State) : Host.Outcome State Fault Refusal :=
  writeAndRetire s (cReg rd) (shiftRightArith (readReg s (cReg rd)) shamt.toNat) 2#32

/-- C.ANDI, 45 R373. -/
def execCAndi (rd : CReg) (imm : BitVec 6) (s : State) : Host.Outcome State Fault Refusal :=
  writeAndRetire s (cReg rd) (readReg s (cReg rd) &&& sext imm) 2#32

/-- C.SUB, 45 R374. -/
def execCSub (rd rs2 : CReg) (s : State) : Host.Outcome State Fault Refusal :=
  writeAndRetire s (cReg rd) (readReg s (cReg rd) - readReg s (cReg rs2)) 2#32

/-- C.XOR, 45 R375. -/
def execCXor (rd rs2 : CReg) (s : State) : Host.Outcome State Fault Refusal :=
  writeAndRetire s (cReg rd) (readReg s (cReg rd) ^^^ readReg s (cReg rs2)) 2#32

/-- C.OR, 45 R376. -/
def execCOr (rd rs2 : CReg) (s : State) : Host.Outcome State Fault Refusal :=
  writeAndRetire s (cReg rd) (readReg s (cReg rd) ||| readReg s (cReg rs2)) 2#32

/-- C.AND, 45 R377. -/
def execCAnd (rd rs2 : CReg) (s : State) : Host.Outcome State Fault Refusal :=
  writeAndRetire s (cReg rd) (readReg s (cReg rd) &&& readReg s (cReg rs2)) 2#32

/-- C.J, 45 R378. -/
def execCJ (offset : BitVec 12) (s : State) : Host.Outcome State Fault Refusal :=
  jumpAndLink s 0#5 (s.pc + sext offset) 2#32

/-- C.BEQZ, 45 R379. -/
def execCBeqz (rs1 : CReg) (offset : BitVec 9) (s : State) : Host.Outcome State Fault Refusal :=
  branch s (readReg s (cReg rs1) == 0#32) (sext offset) 2#32

/-- C.BNEZ, 45 R380. -/
def execCBnez (rs1 : CReg) (offset : BitVec 9) (s : State) : Host.Outcome State Fault Refusal :=
  branch s (readReg s (cReg rs1) != 0#32) (sext offset) 2#32

/-- C.SLLI, 45 R381. -/
def execCSlli (rd : Reg) (shamt : BitVec 5) (s : State) : Host.Outcome State Fault Refusal :=
  writeAndRetire s rd (shiftLeft (readReg s rd) shamt.toNat) 2#32

/-- C.LWSP, 45 R382. -/
def execCLwsp (rd : Reg) (uimm : BitVec 8) (s : State) : Host.Outcome State Fault Refusal :=
  loadTo s rd (spAddress s uimm) .word id 2#32

/-- C.JR, 45 R383. -/
def execCJr (rs1 : Reg) (s : State) : Host.Outcome State Fault Refusal :=
  jumpAndLink s 0#5 (clearBit0 (readReg s rs1)) 2#32

/-- C.MV, 45 R384. -/
def execCMv (rd rs2 : Reg) (s : State) : Host.Outcome State Fault Refusal :=
  writeAndRetire s rd (readReg s rs2) 2#32

/-- C.EBREAK, 45 R385. -/
def execCEbreak  (s : State) : Host.Outcome State Fault Refusal :=
  takeBreakpoint s

/-- C.JALR, 45 R386. -/
def execCJalr (rs1 : Reg) (s : State) : Host.Outcome State Fault Refusal :=
  jumpAndLink s ra (clearBit0 (readReg s rs1)) 2#32

/-- C.ADD, 45 R387. -/
def execCAdd (rd rs2 : Reg) (s : State) : Host.Outcome State Fault Refusal :=
  writeAndRetire s rd (readReg s rd + readReg s rs2) 2#32

/-- C.SWSP, 45 R388. -/
def execCSwsp (rs2 : Reg) (uimm : BitVec 8) (s : State) : Host.Outcome State Fault Refusal :=
  storeFrom s (spAddress s uimm) .word (readReg s rs2) 2#32


end Sys2Proof.Machine
end

