-- ==== Sys2Proof/Machine/MulDiv.lean ====
section
/-! DEFINITION. Multiplication and division (spec/44_m_extension.md R340 to R351). -/

namespace Sys2Proof.Machine

/-! ## Products and quotients (44 R340) -/

/-- Bits [63:32] of the product of two values extended to 64 bits. -/
def highProduct (a b : BitVec 64) : Word := (a * b).extractLsb' 32 32

/-- DIV: towards zero, all ones for a zero divisor, the dividend on overflow (44 R347, R351). -/
def quotientSigned (a b : Word) : Word :=
  if b = 0#32 then 0xFFFFFFFF#32
  else if a = 0x80000000#32 ∧ b = 0xFFFFFFFF#32 then 0x80000000#32
  else BitVec.ofInt 32 (a.toInt.tdiv b.toInt)

/-- DIVU (44 R348, R351). -/
def quotientUnsigned (a b : Word) : Word :=
  if b = 0#32 then 0xFFFFFFFF#32 else BitVec.ofNat 32 (a.toNat / b.toNat)

/-- REM: the sign of the dividend, the dividend for a zero divisor, 0 on overflow (44 R349, R351). -/
def remainderSigned (a b : Word) : Word :=
  if b = 0#32 then a
  else if a = 0x80000000#32 ∧ b = 0xFFFFFFFF#32 then 0#32
  else BitVec.ofInt 32 (a.toInt - b.toInt * a.toInt.tdiv b.toInt)

/-- REMU (44 R350, R351). -/
def remainderUnsigned (a b : Word) : Word :=
  if b = 0#32 then a else BitVec.ofNat 32 (a.toNat % b.toNat)

/-! ## The instructions -/

/-- MUL, 44 R342. -/
def execMul (rd rs1 rs2 : Reg) (s : State) : Host.Outcome State Fault Refusal :=
  writeAndRetire s rd (readReg s rs1 * readReg s rs2) 4#32

/-- MULH, 44 R343. -/
def execMulh (rd rs1 rs2 : Reg) (s : State) : Host.Outcome State Fault Refusal :=
  writeAndRetire s rd (highProduct ((readReg s rs1).signExtend 64) ((readReg s rs2).signExtend 64)) 4#32

/-- MULHSU, 44 R344. -/
def execMulhsu (rd rs1 rs2 : Reg) (s : State) : Host.Outcome State Fault Refusal :=
  writeAndRetire s rd (highProduct ((readReg s rs1).signExtend 64) ((readReg s rs2).setWidth 64)) 4#32

/-- MULHU, 44 R345. -/
def execMulhu (rd rs1 rs2 : Reg) (s : State) : Host.Outcome State Fault Refusal :=
  writeAndRetire s rd (highProduct ((readReg s rs1).setWidth 64) ((readReg s rs2).setWidth 64)) 4#32

/-- DIV, 44 R347. -/
def execDiv (rd rs1 rs2 : Reg) (s : State) : Host.Outcome State Fault Refusal :=
  writeAndRetire s rd (quotientSigned (readReg s rs1) (readReg s rs2)) 4#32

/-- DIVU, 44 R348. -/
def execDivu (rd rs1 rs2 : Reg) (s : State) : Host.Outcome State Fault Refusal :=
  writeAndRetire s rd (quotientUnsigned (readReg s rs1) (readReg s rs2)) 4#32

/-- REM, 44 R349. -/
def execRem (rd rs1 rs2 : Reg) (s : State) : Host.Outcome State Fault Refusal :=
  writeAndRetire s rd (remainderSigned (readReg s rs1) (readReg s rs2)) 4#32

/-- REMU, 44 R350. -/
def execRemu (rd rs1 rs2 : Reg) (s : State) : Host.Outcome State Fault Refusal :=
  writeAndRetire s rd (remainderUnsigned (readReg s rs1) (readReg s rs2)) 4#32


end Sys2Proof.Machine
end

