-- ==== Sys2Proof/Machine/Step.lean ====
section
/-! DEFINITION. One step: an instruction boundary, then either the entry into an interrupt or one instruction
(spec/60_exceptions.md R431, R463; spec/20_memory.md R152; spec/30_encoding.md R210). -/

namespace Sys2Proof.Machine

/-- Run what was fetched: an instruction, or the illegal-instruction exception (30 R210). -/
def runEncoded (s : State) (e : Encoded) : Host.Outcome State Fault Refusal :=
  match decode e with
  | .ok i => exec i s
  | .error _ => takeIllegal s e.bits

/-- Fetch at the pc and run, or take the exception the fetch raises (60 R430). -/
def fetchAndRun (s : State) : Host.Outcome State Fault Refusal :=
  match fetch s with
  | .ok e => runEncoded s e
  | .raise cause tval => takeException s cause tval
  | .debug => .next (enterDebug s)
  | .refuse r => .refused r

/-- What follows a boundary: the interrupt if one is taken, else the next instruction (60 R431). -/
def afterBoundary (s : State) : Host.Outcome State Fault Refusal :=
  match interruptDecision s with
  | .take id => takeInterrupt s id
  | .refuse r => .refused r
  | .noInterrupt => fetchAndRun s

/-- One step.  Debug mode is the debugger's (00 R8); the pc is even in every state a run reaches (10 R37). -/
def step (s : State) : Host.Outcome State Fault Refusal :=
  if s.debugMode then .refused .debugModeExecution
  else if s.pc.getLsbD 0 then .fault .oddPc
  else if s.waiting then singleStep s (resumeWfi (passBoundary s))
  else singleStep s (afterBoundary (passBoundary s))

/-- The state with the `nbits` bits of `w`, zeros above them up to four bytes, stored at the pc, and nothing
fetched ahead, in a hart that does not wait: the program is loaded from outside the machine (notes/assumptions/2.md). -/
def State.withFetchWord (s : State) (nbits w : Nat) : State :=
  { s with
    mem := Memory.writeBytes s.mem s.pc.toNat (wordBytes (w % 2 ^ nbits))
    unfenced := []
    waiting := false }

end Sys2Proof.Machine
end

