-- ==== Sys2Proof/Safety.lean ====
section
/-! DEFINITION. The terms in which the claims speak: runs, the invariant of the machine, a machine that no
debugger has armed, the conditions on a state under which an instruction completes, and what a next state holds
(spec/10_state.md R31, R37, R72, R75; spec/20_memory.md R140; spec/60_exceptions.md R440, R447, R480;
spec/61_clic.md R509; spec/62_debug.md R552). -/

namespace Sys2Proof.Machine

/-- A run: some number of steps, each of which answers a next state. -/
inductive Reaches : State → State → Prop where
  | refl (s : State) : Reaches s s
  | step {s t u : State} (first : Machine.step s = .next t) (rest : Reaches t u) : Reaches s u

/-- The bits of the CLIC registers that belong to reserved interrupt IDs are 0 (61 R509). -/
def ClicRegs.reservedZero (p : Params) (c : ClicRegs) : Prop :=
  ∀ id < 49, implementedId p id = false → c.ie.getLsbD id = false ∧ c.cfgOf id = 0#2

/-- The invariant of the machine. -/
structure Inv (s : State) : Prop where
  /-- the memory is in canonical form -/
  mem_wf : Memory.wf s.mem
  /-- and lists only System Port addresses (20 R144) -/
  mem_port : ∀ c ∈ s.mem, 0x20000000 ≤ c.1 ∧ c.1 < 0x40000000
  /-- x0 is hard-wired to zero (10 R31) -/
  x0 : s.x.get 0 = 0#32
  /-- bit 0 of the pc, of `mepc` and of `dpc` is 0 (10 R37, R72) -/
  pc_even : s.pc.getLsbD 0 = false
  mepc_even : s.mepc.getLsbD 0 = false
  dpc_even : s.dpc.getLsbD 0 = false
  /-- between instructions no hardware vectoring is in progress (60 R447) -/
  minhv : s.mcauseMinhv = false
  /-- the levels are ones the E20 can produce (10 R75) -/
  mil_legal : legalLevel s.mil = true
  mpil_legal : legalLevel s.mcauseMpil = true
  /-- reserved interrupt IDs read 0 (61 R509) -/
  clic_reserved : s.clic.reservedZero s.params
  clicOld_reserved : ∀ c ∈ s.clicOld, c.reservedZero s.params
  /-- trigger 3 is not chained (62 R556) -/
  last_unchained : (s.triggers.get 3).chain = false

/-- No debugger has armed anything (62 R557, R572; 60 R480). -/
structure NoDebugger (s : State) : Prop where
  running : s.debugMode = false
  ebreakm : s.dcsrEbreakm = false
  step : s.dcsrStep = false
  triggers : ∀ i : Fin 4, (s.triggers.get i).dmode = false ∧ (s.triggers.get i).actionDebug = false

/-- A run from `s` that stops with neither a fault nor a refusal within `k` steps. -/
def SafeFor (k : Nat) (s : State) : Prop := ∃ t, core.run k s = .next t

/-! ## Conditions on a state -/

/-- The trap handler's address is aligned, so that traps have a meaning (10 R69). -/
def HandlerAligned (s : State) : Prop := s.mtvec.extractLsb' 2 4 = 0#4

/-- No trigger is enabled for accesses of kind `k` (62 R552). -/
def NoTrigger (s : State) (k : AccessKind) : Prop := ∀ j : Fin 4, (s.triggers.get j).enabledFor k = false

/-- `a` lies in the System Port (20 R140). -/
def InPort (a : Word) : Prop := 0x20000000 ≤ a.toNat ∧ a.toNat < 0x40000000

/-- `a` lies in a Reserved range (20 R140). -/
def InReserved (a : Word) : Prop :=
  (0x1000 ≤ a.toNat ∧ a.toNat < 0x02000000) ∨ (0x03000000 ≤ a.toNat ∧ a.toNat < 0x20000000) ∨
    0x40000000 ≤ a.toNat

/-- `a` lies in the debug region (20 R142). -/
def InDebugRegion (a : Word) : Prop := a.toNat < 0x1000

/-- `a` lies in the CLIC region (20 R143). -/
def InClic (a : Word) : Prop := 0x02000000 ≤ a.toNat ∧ a.toNat < 0x03000000

/-- RAM or ROM of the platform answers at `a` (20 R144). -/
def ReadablePort (s : State) (a : Word) : Prop :=
  InPort a ∧ (backingOf s.platform a.toNat = .ram ∨ backingOf s.platform a.toNat = .rom)

/-- RAM of the platform answers at `a` (20 R144). -/
def WritablePort (s : State) (a : Word) : Prop := InPort a ∧ backingOf s.platform a.toNat = .ram

/-- A load at `a` raises a load access fault (20 R141, R142, R144). -/
def LoadFaults (s : State) (a : Word) : Prop :=
  InReserved a ∨ (InDebugRegion a ∧ s.debugMode = false) ∨
    (InPort a ∧ (backingOf s.platform a.toNat = .error ∨ backingOf s.platform a.toNat = .errorLate))

/-- A store at `a` raises a store access fault (20 R141, R142, R144). -/
def StoreFaults (s : State) (a : Word) : Prop :=
  InReserved a ∨ (InDebugRegion a ∧ s.debugMode = false) ∨ (InPort a ∧ backingOf s.platform a.toNat = .error)

/-- A fetch at `a` raises an instruction access fault (20 R141 to R144). -/
def FetchFaults (s : State) (a : Word) : Prop := InClic a ∨ LoadFaults s a

/-! ## The instructions that make data accesses, with the address and width of the access -/

/-- `i` loads `w` bytes from `a` (42 R295 to R299; 45 R363, R382). -/
inductive LoadsFrom (s : State) : Instr → Word → Size → Prop where
  | lb (rd rs1 : Reg) (imm : BitVec 12) : LoadsFrom s (.lb rd rs1 imm) (effectiveAddress s rs1 imm) .byte
  | lh (rd rs1 : Reg) (imm : BitVec 12) : LoadsFrom s (.lh rd rs1 imm) (effectiveAddress s rs1 imm) .half
  | lw (rd rs1 : Reg) (imm : BitVec 12) : LoadsFrom s (.lw rd rs1 imm) (effectiveAddress s rs1 imm) .word
  | lbu (rd rs1 : Reg) (imm : BitVec 12) : LoadsFrom s (.lbu rd rs1 imm) (effectiveAddress s rs1 imm) .byte
  | lhu (rd rs1 : Reg) (imm : BitVec 12) : LoadsFrom s (.lhu rd rs1 imm) (effectiveAddress s rs1 imm) .half
  | cLw (rd rs1 : CReg) (uimm : BitVec 7) : LoadsFrom s (.cLw rd rs1 uimm) (cAddress s rs1 uimm) .word
  | cLwsp (rd : Reg) (uimm : BitVec 8) : LoadsFrom s (.cLwsp rd uimm) (spAddress s uimm) .word

/-- `i` is a load into `rd`. -/
inductive LoadsInto : Instr → Reg → Prop where
  | lb (rd rs1 : Reg) (imm : BitVec 12) : LoadsInto (.lb rd rs1 imm) rd
  | lh (rd rs1 : Reg) (imm : BitVec 12) : LoadsInto (.lh rd rs1 imm) rd
  | lw (rd rs1 : Reg) (imm : BitVec 12) : LoadsInto (.lw rd rs1 imm) rd
  | lbu (rd rs1 : Reg) (imm : BitVec 12) : LoadsInto (.lbu rd rs1 imm) rd
  | lhu (rd rs1 : Reg) (imm : BitVec 12) : LoadsInto (.lhu rd rs1 imm) rd
  | cLw (rd rs1 : CReg) (uimm : BitVec 7) : LoadsInto (.cLw rd rs1 uimm) (cReg rd)
  | cLwsp (rd : Reg) (uimm : BitVec 8) : LoadsInto (.cLwsp rd uimm) rd

/-- `i` stores `w` bytes at `a` (42 R300 to R302; 45 R364, R388). -/
inductive StoresTo (s : State) : Instr → Word → Size → Prop where
  | sb (rs2 rs1 : Reg) (imm : BitVec 12) : StoresTo s (.sb rs2 rs1 imm) (effectiveAddress s rs1 imm) .byte
  | sh (rs2 rs1 : Reg) (imm : BitVec 12) : StoresTo s (.sh rs2 rs1 imm) (effectiveAddress s rs1 imm) .half
  | sw (rs2 rs1 : Reg) (imm : BitVec 12) : StoresTo s (.sw rs2 rs1 imm) (effectiveAddress s rs1 imm) .word
  | cSw (rs2 rs1 : CReg) (uimm : BitVec 7) : StoresTo s (.cSw rs2 rs1 uimm) (cAddress s rs1 uimm) .word
  | cSwsp (rs2 : Reg) (uimm : BitVec 8) : StoresTo s (.cSwsp rs2 uimm) (spAddress s uimm) .word

/-- `i` accesses CSR number `csr`; `writes` says whether it counts as a write (43 R326). -/
inductive AccessesCsr : Instr → BitVec 12 → Bool → Prop where
  | csrrw (rd rs1 : Reg) (csr : BitVec 12) : AccessesCsr (.csrrw rd rs1 csr) csr true
  | csrrs (rd rs1 : Reg) (csr : BitVec 12) : AccessesCsr (.csrrs rd rs1 csr) csr (rs1 != 0#5)
  | csrrc (rd rs1 : Reg) (csr : BitVec 12) : AccessesCsr (.csrrc rd rs1 csr) csr (rs1 != 0#5)
  | csrrwi (rd : Reg) (uimm : BitVec 5) (csr : BitVec 12) : AccessesCsr (.csrrwi rd uimm csr) csr true
  | csrrsi (rd : Reg) (uimm : BitVec 5) (csr : BitVec 12) : AccessesCsr (.csrrsi rd uimm csr) csr (uimm != 0#5)
  | csrrci (rd : Reg) (uimm : BitVec 5) (csr : BitVec 12) : AccessesCsr (.csrrci rd uimm csr) csr (uimm != 0#5)

/-- `i` is a CSR instruction that reads into `rd`. -/
inductive CsrInto : Instr → Reg → Prop where
  | csrrw (rd rs1 : Reg) (csr : BitVec 12) : CsrInto (.csrrw rd rs1 csr) rd
  | csrrs (rd rs1 : Reg) (csr : BitVec 12) : CsrInto (.csrrs rd rs1 csr) rd
  | csrrc (rd rs1 : Reg) (csr : BitVec 12) : CsrInto (.csrrc rd rs1 csr) rd
  | csrrwi (rd : Reg) (uimm : BitVec 5) (csr : BitVec 12) : CsrInto (.csrrwi rd uimm csr) rd
  | csrrsi (rd : Reg) (uimm : BitVec 5) (csr : BitVec 12) : CsrInto (.csrrsi rd uimm csr) rd
  | csrrci (rd : Reg) (uimm : BitVec 5) (csr : BitVec 12) : CsrInto (.csrrci rd uimm csr) rd

/-! ## What a next state holds -/

/-- Every byte of memory reads as before. -/
def SameMemory (s t : State) : Prop := ∀ a, Memory.read t.mem a = Memory.read s.mem a

/-- `rd` holds a value that satisfies `P`, unless it is `x0`, to which nothing is written; every other register
is as before (10 R31, R33). -/
def WritesReg (s t : State) (rd : Reg) (P : Word → Prop) : Prop :=
  (rd ≠ 0#5 → P (readReg t rd)) ∧ (∀ k, k ≠ rd → readReg t k = readReg s k) ∧ t.x.get 0 = s.x.get 0

/-- Nothing but the general registers, the pc and the count of retired instructions, which goes up by one,
may differ. -/
def OnlyRegisters (s t : State) : Prop :=
  t = { s with x := t.x, pc := t.pc, minstret := s.minstret + 1#64 } ∧ SameMemory s t

/-- The whole effect of an instruction of `len` bytes that computes `rd`. -/
def Computed (s t : State) (rd : Reg) (len : Word) (P : Word → Prop) : Prop :=
  WritesReg s t rd P ∧ t.pc = s.pc + len ∧ OnlyRegisters s t

/-- The whole effect of a jump of `len` bytes to `target` that links in `rd` (41 R271). -/
def Jumped (s t : State) (rd : Reg) (len target : Word) : Prop :=
  WritesReg s t rd (fun v => v = s.pc + len) ∧ t.pc = target ∧ OnlyRegisters s t

/-- The whole effect of an instruction that writes no register and goes on at `target`. -/
def WentTo (s t : State) (target : Word) : Prop := t.x = s.x ∧ t.pc = target ∧ OnlyRegisters s t

/-- The whole effect of an instruction of `len` bytes that stores the bytes `bs` at `a` in RAM.  The bytes it
replaced are kept for fetches that miss the store (20 R170). -/
def Stored (s t : State) (a : Word) (bs : List Byte) (len : Word) : Prop :=
  (∀ (j : Nat) (h : j < bs.length), Memory.read t.mem (a.toNat + j) = bs[j]) ∧
  (∀ k, k < a.toNat ∨ a.toNat + bs.length ≤ k → Memory.read t.mem k = Memory.read s.mem k) ∧
  t.unfenced = ⟨a.toNat, Memory.readBytes s.mem a.toNat bs.length⟩ :: s.unfenced ∧
  t = { s with mem := t.mem, unfenced := t.unfenced, pc := s.pc + len, minstret := s.minstret + 1#64 }

/-- The state after the entry of a synchronous exception: what it saves, what it changes, and that all else,
the registers and the memory among it, is as before (60 R440). -/
structure ExceptionEntered (s t : State) (code : BitVec 10) (tval : Word) : Prop where
  mepc : t.mepc = s.pc
  interrupt : t.mcauseInterrupt = false
  code : t.mcauseCode = code
  mtval : t.mtval = tval
  mpie : t.mstatusMpie = s.mstatusMie
  mie : t.mstatusMie = false
  mpil : t.mcauseMpil = if clicMode s then s.mil else s.mcauseMpil
  pc : t.pc = s.mtvec &&& 0xFFFFFFC0#32
  rest : t = { s with
    mepc := t.mepc, mcauseInterrupt := t.mcauseInterrupt, mcauseCode := t.mcauseCode, mtval := t.mtval,
    mstatusMpie := t.mstatusMpie, mstatusMie := t.mstatusMie, mcauseMpil := t.mcauseMpil, pc := t.pc }
  memory : SameMemory s t

/-- The instruction takes the exception with this code and trap value. -/
def TakesException (i : Instr) (s : State) (code : BitVec 10) (tval : Word) : Prop :=
  ∃ t, exec i s = .next t ∧ ExceptionEntered s t code tval

/-- The bits `e` at the pc raise the illegal-instruction exception; `mtval` receives them or 0 (30 R210, R211). -/
def RaisesIllegal (s : State) (e : Encoded) : Prop :=
  ∃ t tval, runEncoded s e = .next t ∧ (tval = 0#32 ∨ tval = e.bits) ∧ ExceptionEntered s t 2#10 tval

/-- The whole effect of a load from the CLIC region: the registers, and that the interrupt logic sees the
current CLIC registers from now on (20 R156, R161). -/
def ClicLoaded (s t : State) (len : Word) : Prop :=
  t = { s with x := t.x, pc := s.pc + len, minstret := s.minstret + 1#64, clicOld := [] } ∧ SameMemory s t

/-- The whole effect of a store to the CLIC region, all but the value of the register stored to: the interrupt
logic may go on to see the older registers (20 R161). -/
def ClicStored (s t : State) (len : Word) : Prop :=
  t = { s with
    clic := t.clic, clicOld := t.clicOld, mtime := t.mtime, pc := s.pc + len, minstret := s.minstret + 1#64 } ∧
  t.clicOld = (if t.clic = s.clic then s.clicOld else s.clic :: s.clicOld) ∧ SameMemory s t

/-- The state after the entry of interrupt `id`, all but where the pc goes (60 R440, R446).  The level is that of the
CLIC registers as the interrupt logic sees them (notes/assumptions/8.md). -/
structure InterruptEntered (s t : State) (id : Nat) : Prop where
  mepc : t.mepc = s.pc
  interrupt : t.mcauseInterrupt = true
  code : t.mcauseCode.toNat = id
  mtval : t.mtval = 0#32
  mpie : t.mstatusMpie = s.mstatusMie
  mie : t.mstatusMie = false
  mpil : t.mcauseMpil = if clicMode s then s.mil else s.mcauseMpil
  mil : t.mil = if clicMode s then levelSeen s id else s.mil
  minhv : t.mcauseMinhv = s.mcauseMinhv ∨ t.mcauseMinhv = false
  rest : t = { s with
    mepc := t.mepc, mcauseInterrupt := t.mcauseInterrupt, mcauseCode := t.mcauseCode, mtval := t.mtval,
    mstatusMpie := t.mstatusMpie, mstatusMie := t.mstatusMie, mcauseMpil := t.mcauseMpil, mil := t.mil,
    mcauseMinhv := t.mcauseMinhv, pc := t.pc }
  memory : SameMemory s t

/-- Entry into debug mode: the pc is copied to `dpc`, the hart is at the debug trap vector, and nothing else
changes (62 R570). -/
def DebugEntered (s t : State) : Prop := t = { s with dpc := s.pc, pc := debugEntry, debugMode := true }

end Sys2Proof.Machine
end

