-- ==== Sys2Proof/Certificates/Slice0/Obligations.lean ====
section
/-! DEFINITION. The statements for the provers, one `def` each; OBLIGATIONS.json says of each what it rests on. -/

open Sys2Proof Sys2Proof.Machine

/-! ## RV32I and M: what the instructions compute -/

/-- LUI, AUIPC, ADDI, ADD, SUB: encodings, results modulo 2^32, and the whole effect (40 R234, R235, R236, R245,
R246). -/
def Obligations.AddSubResults : Prop :=
  ∀ (s : State) (rd rs1 rs2 : Reg) (imm : BitVec 12) (imm20 : BitVec 20),
    (decode (.full (imm20 ++ rd ++ 0b0110111#7)) = .ok (.lui rd imm20) ∧
      ∃ t, exec (.lui rd imm20) s = .next t ∧
        Computed s t rd 4#32 fun v => v.toNat = imm20.toNat * 2 ^ 12) ∧
    (decode (.full (imm20 ++ rd ++ 0b0010111#7)) = .ok (.auipc rd imm20) ∧
      ∃ t, exec (.auipc rd imm20) s = .next t ∧
        Computed s t rd 4#32 fun v => v.toNat = (s.pc.toNat + imm20.toNat * 2 ^ 12) % 2 ^ 32) ∧
    (decode (.full (imm ++ rs1 ++ 0b000#3 ++ rd ++ 0b0010011#7)) = .ok (.addi rd rs1 imm) ∧
      ∃ t, exec (.addi rd rs1 imm) s = .next t ∧
        Computed s t rd 4#32 fun v => v = BitVec.ofInt 32 ((readReg s rs1).toInt + imm.toInt)) ∧
    (decode (.full (0b0000000#7 ++ rs2 ++ rs1 ++ 0b000#3 ++ rd ++ 0b0110011#7)) = .ok (.add rd rs1 rs2) ∧
      ∃ t, exec (.add rd rs1 rs2) s = .next t ∧
        Computed s t rd 4#32 fun v => v.toNat = ((readReg s rs1).toNat + (readReg s rs2).toNat) % 2 ^ 32) ∧
    (decode (.full (0b0100000#7 ++ rs2 ++ rs1 ++ 0b000#3 ++ rd ++ 0b0110011#7)) = .ok (.sub rd rs1 rs2) ∧
      ∃ t, exec (.sub rd rs1 rs2) s = .next t ∧
        Computed s t rd 4#32 fun v =>
          (v.toNat : Int) = ((readReg s rs1).toNat - (readReg s rs2).toNat : Int) % 2 ^ 32)

/-- XORI, ORI, ANDI, XOR, OR, AND bit by bit; bit 11 of the immediate stands for all the higher ones (40 R239 to
R241, R250, R253, R254). -/
def Obligations.LogicResults : Prop :=
  ∀ (s : State) (rd rs1 rs2 : Reg) (imm : BitVec 12),
    (decode (.full (imm ++ rs1 ++ 0b100#3 ++ rd ++ 0b0010011#7)) = .ok (.xori rd rs1 imm) ∧
      ∃ t, exec (.xori rd rs1 imm) s = .next t ∧
        Computed s t rd 4#32 fun v => ∀ k < 32,
          v.getLsbD k = ((readReg s rs1).getLsbD k ^^ imm.getLsbD (min k 11))) ∧
    (decode (.full (imm ++ rs1 ++ 0b110#3 ++ rd ++ 0b0010011#7)) = .ok (.ori rd rs1 imm) ∧
      ∃ t, exec (.ori rd rs1 imm) s = .next t ∧
        Computed s t rd 4#32 fun v => ∀ k < 32,
          v.getLsbD k = ((readReg s rs1).getLsbD k || imm.getLsbD (min k 11))) ∧
    (decode (.full (imm ++ rs1 ++ 0b111#3 ++ rd ++ 0b0010011#7)) = .ok (.andi rd rs1 imm) ∧
      ∃ t, exec (.andi rd rs1 imm) s = .next t ∧
        Computed s t rd 4#32 fun v => ∀ k < 32,
          v.getLsbD k = ((readReg s rs1).getLsbD k && imm.getLsbD (min k 11))) ∧
    (decode (.full (0b0000000#7 ++ rs2 ++ rs1 ++ 0b100#3 ++ rd ++ 0b0110011#7)) = .ok (.xor rd rs1 rs2) ∧
      ∃ t, exec (.xor rd rs1 rs2) s = .next t ∧
        Computed s t rd 4#32 fun v => ∀ k < 32,
          v.getLsbD k = ((readReg s rs1).getLsbD k ^^ (readReg s rs2).getLsbD k)) ∧
    (decode (.full (0b0000000#7 ++ rs2 ++ rs1 ++ 0b110#3 ++ rd ++ 0b0110011#7)) = .ok (.or rd rs1 rs2) ∧
      ∃ t, exec (.or rd rs1 rs2) s = .next t ∧
        Computed s t rd 4#32 fun v => ∀ k < 32,
          v.getLsbD k = ((readReg s rs1).getLsbD k || (readReg s rs2).getLsbD k)) ∧
    (decode (.full (0b0000000#7 ++ rs2 ++ rs1 ++ 0b111#3 ++ rd ++ 0b0110011#7)) = .ok (.and rd rs1 rs2) ∧
      ∃ t, exec (.and rd rs1 rs2) s = .next t ∧
        Computed s t rd 4#32 fun v => ∀ k < 32,
          v.getLsbD k = ((readReg s rs1).getLsbD k && (readReg s rs2).getLsbD k))

/-- SLLI, SRLI, SRAI, SLL, SRL, SRA as products and quotients by powers of two; the amount is taken modulo 32; the
immediate forms with other upper bits are illegal (40 R232, R242 to R244, R247, R251, R252). -/
def Obligations.ShiftResults : Prop :=
  ∀ (s : State) (rd rs1 rs2 : Reg) (shamt : BitVec 5) (f : BitVec 7),
    (decode (.full (0b0000000#7 ++ shamt ++ rs1 ++ 0b001#3 ++ rd ++ 0b0010011#7)) = .ok (.slli rd rs1 shamt) ∧
      (f ≠ 0b0000000#7 →
        runEncoded s (.full (f ++ shamt ++ rs1 ++ 0b001#3 ++ rd ++ 0b0010011#7)) =
          takeIllegal s (f ++ shamt ++ rs1 ++ 0b001#3 ++ rd ++ 0b0010011#7)) ∧
      ∃ t, exec (.slli rd rs1 shamt) s = .next t ∧
        Computed s t rd 4#32 fun v => v.toNat = (readReg s rs1).toNat * 2 ^ shamt.toNat % 2 ^ 32) ∧
    (decode (.full (0b0000000#7 ++ shamt ++ rs1 ++ 0b101#3 ++ rd ++ 0b0010011#7)) = .ok (.srli rd rs1 shamt) ∧
      (f ≠ 0b0000000#7 → f ≠ 0b0100000#7 →
        runEncoded s (.full (f ++ shamt ++ rs1 ++ 0b101#3 ++ rd ++ 0b0010011#7)) =
          takeIllegal s (f ++ shamt ++ rs1 ++ 0b101#3 ++ rd ++ 0b0010011#7)) ∧
      ∃ t, exec (.srli rd rs1 shamt) s = .next t ∧
        Computed s t rd 4#32 fun v => v.toNat = (readReg s rs1).toNat / 2 ^ shamt.toNat) ∧
    (decode (.full (0b0100000#7 ++ shamt ++ rs1 ++ 0b101#3 ++ rd ++ 0b0010011#7)) = .ok (.srai rd rs1 shamt) ∧
      ∃ t, exec (.srai rd rs1 shamt) s = .next t ∧
        Computed s t rd 4#32 fun v => v.toInt = (readReg s rs1).toInt / 2 ^ shamt.toNat) ∧
    (decode (.full (0b0000000#7 ++ rs2 ++ rs1 ++ 0b001#3 ++ rd ++ 0b0110011#7)) = .ok (.sll rd rs1 rs2) ∧
      ∃ t, exec (.sll rd rs1 rs2) s = .next t ∧
        Computed s t rd 4#32 fun v =>
          v.toNat = (readReg s rs1).toNat * 2 ^ ((readReg s rs2).toNat % 32) % 2 ^ 32) ∧
    (decode (.full (0b0000000#7 ++ rs2 ++ rs1 ++ 0b101#3 ++ rd ++ 0b0110011#7)) = .ok (.srl rd rs1 rs2) ∧
      ∃ t, exec (.srl rd rs1 rs2) s = .next t ∧
        Computed s t rd 4#32 fun v => v.toNat = (readReg s rs1).toNat / 2 ^ ((readReg s rs2).toNat % 32)) ∧
    (decode (.full (0b0100000#7 ++ rs2 ++ rs1 ++ 0b101#3 ++ rd ++ 0b0110011#7)) = .ok (.sra rd rs1 rs2) ∧
      ∃ t, exec (.sra rd rs1 rs2) s = .next t ∧
        Computed s t rd 4#32 fun v => v.toInt = (readReg s rs1).toInt / 2 ^ ((readReg s rs2).toNat % 32))

/-- SLTI, SLTIU, SLT, SLTU: 1 or 0 by the signed or unsigned order; SLTIU compares with the sign-extended
immediate read as unsigned (40 R237, R238, R248, R249). -/
def Obligations.CompareResults : Prop :=
  ∀ (s : State) (rd rs1 rs2 : Reg) (imm : BitVec 12),
    (decode (.full (imm ++ rs1 ++ 0b010#3 ++ rd ++ 0b0010011#7)) = .ok (.slti rd rs1 imm) ∧
      ∃ t, exec (.slti rd rs1 imm) s = .next t ∧
        Computed s t rd 4#32 fun v => v = if (readReg s rs1).toInt < imm.toInt then 1#32 else 0#32) ∧
    (decode (.full (imm ++ rs1 ++ 0b011#3 ++ rd ++ 0b0010011#7)) = .ok (.sltiu rd rs1 imm) ∧
      ∃ t, exec (.sltiu rd rs1 imm) s = .next t ∧
        Computed s t rd 4#32 fun v =>
          v = if ((readReg s rs1).toNat : Int) < imm.toInt % 2 ^ 32 then 1#32 else 0#32) ∧
    (decode (.full (0b0000000#7 ++ rs2 ++ rs1 ++ 0b010#3 ++ rd ++ 0b0110011#7)) = .ok (.slt rd rs1 rs2) ∧
      ∃ t, exec (.slt rd rs1 rs2) s = .next t ∧
        Computed s t rd 4#32 fun v =>
          v = if (readReg s rs1).toInt < (readReg s rs2).toInt then 1#32 else 0#32) ∧
    (decode (.full (0b0000000#7 ++ rs2 ++ rs1 ++ 0b011#3 ++ rd ++ 0b0110011#7)) = .ok (.sltu rd rs1 rs2) ∧
      ∃ t, exec (.sltu rd rs1 rs2) s = .next t ∧
        Computed s t rd 4#32 fun v =>
          v = if (readReg s rs1).toNat < (readReg s rs2).toNat then 1#32 else 0#32)

/-- MUL, MULH, MULHSU, MULHU: the low and the high word of the exact product (44 R342 to R345). -/
def Obligations.MultiplyResults : Prop :=
  ∀ (s : State) (rd rs1 rs2 : Reg),
    (decode (.full (0b0000001#7 ++ rs2 ++ rs1 ++ 0b000#3 ++ rd ++ 0b0110011#7)) = .ok (.mul rd rs1 rs2) ∧
      ∃ t, exec (.mul rd rs1 rs2) s = .next t ∧
        Computed s t rd 4#32 fun v => v.toNat = (readReg s rs1).toNat * (readReg s rs2).toNat % 2 ^ 32) ∧
    (decode (.full (0b0000001#7 ++ rs2 ++ rs1 ++ 0b001#3 ++ rd ++ 0b0110011#7)) = .ok (.mulh rd rs1 rs2) ∧
      ∃ t, exec (.mulh rd rs1 rs2) s = .next t ∧
        Computed s t rd 4#32 fun v => v.toInt = (readReg s rs1).toInt * (readReg s rs2).toInt / 2 ^ 32) ∧
    (decode (.full (0b0000001#7 ++ rs2 ++ rs1 ++ 0b010#3 ++ rd ++ 0b0110011#7)) = .ok (.mulhsu rd rs1 rs2) ∧
      ∃ t, exec (.mulhsu rd rs1 rs2) s = .next t ∧
        Computed s t rd 4#32 fun v =>
          v.toInt = (readReg s rs1).toInt * ((readReg s rs2).toNat : Int) / 2 ^ 32) ∧
    (decode (.full (0b0000001#7 ++ rs2 ++ rs1 ++ 0b011#3 ++ rd ++ 0b0110011#7)) = .ok (.mulhu rd rs1 rs2) ∧
      ∃ t, exec (.mulhu rd rs1 rs2) s = .next t ∧
        Computed s t rd 4#32 fun v => v.toNat = (readReg s rs1).toNat * (readReg s rs2).toNat / 2 ^ 32)

/-- DIV, DIVU, REM, REMU with their two special cases (44 R347 to R351). -/
def Obligations.DivideResults : Prop :=
  ∀ (s : State) (rd rs1 rs2 : Reg) (a b : Word), a = readReg s rs1 → b = readReg s rs2 →
    (decode (.full (0b0000001#7 ++ rs2 ++ rs1 ++ 0b100#3 ++ rd ++ 0b0110011#7)) = .ok (.div rd rs1 rs2) ∧
      ∃ t, exec (.div rd rs1 rs2) s = .next t ∧
        Computed s t rd 4#32 fun v =>
          if b = 0#32 then v = 0xFFFFFFFF#32
          else if a = 0x80000000#32 ∧ b = 0xFFFFFFFF#32 then v = 0x80000000#32
          else v.toInt = a.toInt.tdiv b.toInt) ∧
    (decode (.full (0b0000001#7 ++ rs2 ++ rs1 ++ 0b101#3 ++ rd ++ 0b0110011#7)) = .ok (.divu rd rs1 rs2) ∧
      ∃ t, exec (.divu rd rs1 rs2) s = .next t ∧
        Computed s t rd 4#32 fun v => if b = 0#32 then v = 0xFFFFFFFF#32 else v.toNat = a.toNat / b.toNat) ∧
    (decode (.full (0b0000001#7 ++ rs2 ++ rs1 ++ 0b110#3 ++ rd ++ 0b0110011#7)) = .ok (.rem rd rs1 rs2) ∧
      ∃ t, exec (.rem rd rs1 rs2) s = .next t ∧
        Computed s t rd 4#32 fun v =>
          if b = 0#32 then v = a
          else if a = 0x80000000#32 ∧ b = 0xFFFFFFFF#32 then v = 0#32
          else v.toInt = a.toInt - b.toInt * a.toInt.tdiv b.toInt) ∧
    (decode (.full (0b0000001#7 ++ rs2 ++ rs1 ++ 0b111#3 ++ rd ++ 0b0110011#7)) = .ok (.remu rd rs1 rs2) ∧
      ∃ t, exec (.remu rd rs1 rs2) s = .next t ∧
        Computed s t rd 4#32 fun v => if b = 0#32 then v = a else v.toNat = a.toNat % b.toNat)

/-- The law of division: dividend = divisor * quotient + remainder for every dividend and divisor, signed and
unsigned; a remainder by a divisor other than 0 is smaller than it, and a signed one has the dividend's sign or is
0 (44 section 1). -/
def Obligations.DivisionLaw : Prop :=
  ∀ (s : State) (rd rs1 rs2 : Reg) (a b : Word), rd ≠ 0#5 → a = readReg s rs1 → b = readReg s rs2 →
    (∃ t u, exec (.div rd rs1 rs2) s = .next t ∧ exec (.rem rd rs1 rs2) s = .next u ∧
      a = b * readReg t rd + readReg u rd ∧
      (b ≠ 0#32 → (readReg u rd).toInt.natAbs < b.toInt.natAbs) ∧
      (0 ≤ a.toInt → 0 ≤ (readReg u rd).toInt) ∧ (a.toInt < 0 → (readReg u rd).toInt ≤ 0)) ∧
    (∃ t u, exec (.divu rd rs1 rs2) s = .next t ∧ exec (.remu rd rs1 rs2) s = .next u ∧
      a = b * readReg t rd + readReg u rd ∧ (b ≠ 0#32 → (readReg u rd).toNat < b.toNat))

/-! ## Control transfer -/

/-- JAL and JALR: link, target, encodings (41 R270, R273, R274). -/
def Obligations.JumpResults : Prop :=
  ∀ (s : State) (rd rs1 : Reg) (imm : BitVec 12) (offset : BitVec 21) (f : BitVec 3)
    (o20 o11 : BitVec 1) (o10 : BitVec 10) (o19 : BitVec 8),
    decode (.full (o20 ++ o10 ++ o11 ++ o19 ++ rd ++ 0b1101111#7)) = .ok (.jal rd (o20 ++ o19 ++ o11 ++ o10 ++ 0#1)) ∧
    (∃ t, exec (.jal rd offset) s = .next t ∧
      Jumped s t rd 4#32 (BitVec.ofInt 32 (s.pc.toInt + offset.toInt))) ∧
    decode (.full (imm ++ rs1 ++ 0b000#3 ++ rd ++ 0b1100111#7)) = .ok (.jalr rd rs1 imm) ∧
    (f ≠ 0b000#3 →
      runEncoded s (.full (imm ++ rs1 ++ f ++ rd ++ 0b1100111#7)) =
        takeIllegal s (imm ++ rs1 ++ f ++ rd ++ 0b1100111#7)) ∧
    (∃ t, exec (.jalr rd rs1 imm) s = .next t ∧
      Jumped s t rd 4#32 (BitVec.ofInt 32 (((readReg s rs1).toInt + imm.toInt) / 2 * 2)))

/-- BEQ, BNE, BLT, BGE, BLTU, BGEU: condition, target, encodings (41 R275 to R280). -/
def Obligations.BranchResults : Prop :=
  ∀ (s : State) (rs1 rs2 : Reg) (offset : BitVec 13) (o12 o11 : BitVec 1) (o10 : BitVec 6) (o4 : BitVec 4)
    (a b taken next : Word),
    a = readReg s rs1 → b = readReg s rs2 →
    taken = BitVec.ofInt 32 (s.pc.toInt + offset.toInt) → next = s.pc + 4#32 →
    (decode (.full (o12 ++ o10 ++ rs2 ++ rs1 ++ 0b000#3 ++ o4 ++ o11 ++ 0b1100011#7)) =
        .ok (.beq rs1 rs2 (o12 ++ o11 ++ o10 ++ o4 ++ 0#1)) ∧
      ∃ t, exec (.beq rs1 rs2 offset) s = .next t ∧ WentTo s t (if a = b then taken else next)) ∧
    (decode (.full (o12 ++ o10 ++ rs2 ++ rs1 ++ 0b001#3 ++ o4 ++ o11 ++ 0b1100011#7)) =
        .ok (.bne rs1 rs2 (o12 ++ o11 ++ o10 ++ o4 ++ 0#1)) ∧
      ∃ t, exec (.bne rs1 rs2 offset) s = .next t ∧ WentTo s t (if a = b then next else taken)) ∧
    (decode (.full (o12 ++ o10 ++ rs2 ++ rs1 ++ 0b100#3 ++ o4 ++ o11 ++ 0b1100011#7)) =
        .ok (.blt rs1 rs2 (o12 ++ o11 ++ o10 ++ o4 ++ 0#1)) ∧
      ∃ t, exec (.blt rs1 rs2 offset) s = .next t ∧ WentTo s t (if a.toInt < b.toInt then taken else next)) ∧
    (decode (.full (o12 ++ o10 ++ rs2 ++ rs1 ++ 0b101#3 ++ o4 ++ o11 ++ 0b1100011#7)) =
        .ok (.bge rs1 rs2 (o12 ++ o11 ++ o10 ++ o4 ++ 0#1)) ∧
      ∃ t, exec (.bge rs1 rs2 offset) s = .next t ∧ WentTo s t (if a.toInt < b.toInt then next else taken)) ∧
    (decode (.full (o12 ++ o10 ++ rs2 ++ rs1 ++ 0b110#3 ++ o4 ++ o11 ++ 0b1100011#7)) =
        .ok (.bltu rs1 rs2 (o12 ++ o11 ++ o10 ++ o4 ++ 0#1)) ∧
      ∃ t, exec (.bltu rs1 rs2 offset) s = .next t ∧ WentTo s t (if a.toNat < b.toNat then taken else next)) ∧
    (decode (.full (o12 ++ o10 ++ rs2 ++ rs1 ++ 0b111#3 ++ o4 ++ o11 ++ 0b1100011#7)) =
        .ok (.bgeu rs1 rs2 (o12 ++ o11 ++ o10 ++ o4 ++ 0#1)) ∧
      ∃ t, exec (.bgeu rs1 rs2 offset) s = .next t ∧ WentTo s t (if a.toNat < b.toNat then next else taken))

/-! ## Loads and stores -/

/-- LB, LH, LW, LBU, LHU, C.LW, C.LWSP: encodings, effective address, value and whole effect where RAM or ROM
answers, and the two exceptions (42 R295 to R299; 45 R363, R382).  Where a trigger is enabled for loads,
`TriggerBreakpoint` says more. -/
def Obligations.LoadResults : Prop :=
  ∀ (s : State), NoTrigger s .load →
    (∀ (rd rs1 : Reg) (imm : BitVec 12),
      decode (.full (imm ++ rs1 ++ 0b000#3 ++ rd ++ 0b0000011#7)) = .ok (.lb rd rs1 imm) ∧
      decode (.full (imm ++ rs1 ++ 0b001#3 ++ rd ++ 0b0000011#7)) = .ok (.lh rd rs1 imm) ∧
      decode (.full (imm ++ rs1 ++ 0b010#3 ++ rd ++ 0b0000011#7)) = .ok (.lw rd rs1 imm) ∧
      decode (.full (imm ++ rs1 ++ 0b100#3 ++ rd ++ 0b0000011#7)) = .ok (.lbu rd rs1 imm) ∧
      decode (.full (imm ++ rs1 ++ 0b101#3 ++ rd ++ 0b0000011#7)) = .ok (.lhu rd rs1 imm)) ∧
    (∀ (rd rs1 : CReg) (r : Reg) (u53 u42 : BitVec 3) (u2 u6 u5 : BitVec 1) (u76 : BitVec 2),
      decode (.half (0b010#3 ++ u53 ++ rs1 ++ u2 ++ u6 ++ rd ++ 0b00#2)) =
        .ok (.cLw rd rs1 (u6 ++ u53 ++ u2 ++ 0#2)) ∧
      decode (.half (0b010#3 ++ u5 ++ r ++ u42 ++ u76 ++ 0b10#2)) =
        (if r = 0#5 then .error (.noCompressed (0b010#3 ++ u5 ++ r ++ u42 ++ u76 ++ 0b10#2))
         else .ok (.cLwsp r (u76 ++ u5 ++ u42 ++ 0#2)))) ∧
    (∀ (rd rs1 : Reg) (imm : BitVec 12) (a : Word), a = effectiveAddress s rs1 imm → ReadablePort s a →
      a = BitVec.ofInt 32 ((readReg s rs1).toInt + imm.toInt) ∧
      (∃ t, exec (.lb rd rs1 imm) s = .next t ∧
        Computed s t rd 4#32 fun v => v.toInt = (Memory.read s.mem a.toNat).toInt) ∧
      (∃ t, exec (.lbu rd rs1 imm) s = .next t ∧
        Computed s t rd 4#32 fun v => v.toNat = (Memory.read s.mem a.toNat).toNat) ∧
      (a.toNat % 2 = 0 →
        (∃ t, exec (.lh rd rs1 imm) s = .next t ∧
          Computed s t rd 4#32 fun v =>
            v.toInt = (Memory.read s.mem (a.toNat + 1) ++ Memory.read s.mem a.toNat).toInt) ∧
        (∃ t, exec (.lhu rd rs1 imm) s = .next t ∧
          Computed s t rd 4#32 fun v =>
            v.toNat = (Memory.read s.mem (a.toNat + 1) ++ Memory.read s.mem a.toNat).toNat)) ∧
      (a.toNat % 4 = 0 →
        ∃ t, exec (.lw rd rs1 imm) s = .next t ∧
          Computed s t rd 4#32 fun v =>
            v = Memory.read s.mem (a.toNat + 3) ++ Memory.read s.mem (a.toNat + 2)
              ++ Memory.read s.mem (a.toNat + 1) ++ Memory.read s.mem a.toNat)) ∧
    (∀ (rd rs1 : CReg) (uimm : BitVec 7) (a : Word), a = cAddress s rs1 uimm → ReadablePort s a →
      a.toNat % 4 = 0 →
      a.toNat = ((readReg s (cReg rs1)).toNat + uimm.toNat) % 2 ^ 32 ∧ (cReg rd).toNat = 8 + rd.toNat ∧
      ∃ t, exec (.cLw rd rs1 uimm) s = .next t ∧
        Computed s t (cReg rd) 2#32 fun v =>
          v = Memory.read s.mem (a.toNat + 3) ++ Memory.read s.mem (a.toNat + 2)
            ++ Memory.read s.mem (a.toNat + 1) ++ Memory.read s.mem a.toNat) ∧
    (∀ (rd : Reg) (uimm : BitVec 8) (a : Word), a = spAddress s uimm → ReadablePort s a → a.toNat % 4 = 0 →
      a.toNat = ((readReg s 2#5).toNat + uimm.toNat) % 2 ^ 32 ∧
      ∃ t, exec (.cLwsp rd uimm) s = .next t ∧
        Computed s t rd 2#32 fun v =>
          v = Memory.read s.mem (a.toNat + 3) ++ Memory.read s.mem (a.toNat + 2)
            ++ Memory.read s.mem (a.toNat + 1) ++ Memory.read s.mem a.toNat) ∧
    (∀ (i : Instr) (a : Word) (w : Size), LoadsFrom s i a w → HandlerAligned s →
      (a.toNat % w.bytes ≠ 0 → TakesException i s 4#10 a) ∧
      (a.toNat % w.bytes = 0 → LoadFaults s a → TakesException i s 5#10 a))

/-- SB, SH, SW, C.SW, C.SWSP: encodings, effective address, the bytes stored and nothing else where RAM answers,
and the two exceptions (42 R300 to R302; 45 R364, R388). -/
def Obligations.StoreResults : Prop :=
  ∀ (s : State), NoTrigger s .store →
    (∀ (rs2 rs1 : Reg) (hi : BitVec 7) (lo : BitVec 5),
      decode (.full (hi ++ rs2 ++ rs1 ++ 0b000#3 ++ lo ++ 0b0100011#7)) = .ok (.sb rs2 rs1 (hi ++ lo)) ∧
      decode (.full (hi ++ rs2 ++ rs1 ++ 0b001#3 ++ lo ++ 0b0100011#7)) = .ok (.sh rs2 rs1 (hi ++ lo)) ∧
      decode (.full (hi ++ rs2 ++ rs1 ++ 0b010#3 ++ lo ++ 0b0100011#7)) = .ok (.sw rs2 rs1 (hi ++ lo))) ∧
    (∀ (rs2 rs1 : CReg) (r : Reg) (u53 : BitVec 3) (u2 u6 : BitVec 1) (u52 : BitVec 4) (u76 : BitVec 2),
      decode (.half (0b110#3 ++ u53 ++ rs1 ++ u2 ++ u6 ++ rs2 ++ 0b00#2)) =
        .ok (.cSw rs2 rs1 (u6 ++ u53 ++ u2 ++ 0#2)) ∧
      decode (.half (0b110#3 ++ u52 ++ u76 ++ r ++ 0b10#2)) = .ok (.cSwsp r (u76 ++ u52 ++ 0#2))) ∧
    (∀ (rs2 rs1 : Reg) (imm : BitVec 12) (a v : Word), a = effectiveAddress s rs1 imm → v = readReg s rs2 →
      WritablePort s a →
      a = BitVec.ofInt 32 ((readReg s rs1).toInt + imm.toInt) ∧
      (∃ t, exec (.sb rs2 rs1 imm) s = .next t ∧ Stored s t a [v.extractLsb' 0 8] 4#32) ∧
      (a.toNat % 2 = 0 →
        ∃ t, exec (.sh rs2 rs1 imm) s = .next t ∧ Stored s t a [v.extractLsb' 0 8, v.extractLsb' 8 8] 4#32) ∧
      (a.toNat % 4 = 0 →
        ∃ t, exec (.sw rs2 rs1 imm) s = .next t ∧
          Stored s t a [v.extractLsb' 0 8, v.extractLsb' 8 8, v.extractLsb' 16 8, v.extractLsb' 24 8] 4#32)) ∧
    (∀ (rs2 rs1 : CReg) (uimm : BitVec 7) (a v : Word), a = cAddress s rs1 uimm → v = readReg s (cReg rs2) →
      WritablePort s a → a.toNat % 4 = 0 →
      a.toNat = ((readReg s (cReg rs1)).toNat + uimm.toNat) % 2 ^ 32 ∧ (cReg rs2).toNat = 8 + rs2.toNat ∧
      ∃ t, exec (.cSw rs2 rs1 uimm) s = .next t ∧
        Stored s t a [v.extractLsb' 0 8, v.extractLsb' 8 8, v.extractLsb' 16 8, v.extractLsb' 24 8] 2#32) ∧
    (∀ (rs2 : Reg) (uimm : BitVec 8) (a v : Word), a = spAddress s uimm → v = readReg s rs2 →
      WritablePort s a → a.toNat % 4 = 0 →
      a.toNat = ((readReg s 2#5).toNat + uimm.toNat) % 2 ^ 32 ∧
      ∃ t, exec (.cSwsp rs2 uimm) s = .next t ∧
        Stored s t a [v.extractLsb' 0 8, v.extractLsb' 8 8, v.extractLsb' 16 8, v.extractLsb' 24 8] 2#32) ∧
    (∀ (i : Instr) (a : Word) (w : Size), StoresTo s i a w → HandlerAligned s →
      (a.toNat % w.bytes ≠ 0 → TakesException i s 6#10 a) ∧
      (a.toNat % w.bytes = 0 → StoreFaults s a → TakesException i s 7#10 a))

/-- An instruction that is no store leaves every byte of memory and every CLIC register as it was, and records
nothing for later fetches but by FENCE.I (20 section 3; 42 section 3). -/
def Obligations.OnlyStoresWriteMemory : Prop :=
  ∀ (i : Instr) (s t : State), (∀ a w, ¬ StoresTo s i a w) → exec i s = .next t →
    SameMemory s t ∧ t.clic = s.clic ∧ t.mtime = s.mtime ∧ (t.unfenced = s.unfenced ∨ t.unfenced = [])

/-! ## The CLIC's registers -/

/-- What LBU and LW read at the registers of the CLIC, and that a load of any form from an implemented address
of the region completes, changing nothing there (61 sections 2 and 5; 20 section 4).  The bytes of reserved IDs
read 0: those of `clicintip` always, the others where they hold 0, as the invariant of `StepKeepsInv` has it.  The
input of interrupt 48, and that loads of every width act byte by byte, are the model's choice
(notes/assumptions/9.md, 22.md). -/
def Obligations.ClicReads : Prop :=
  ∀ (s : State), NoTrigger s .load →
    (∀ (rd rs1 : Reg) (imm : BitVec 12) (a : Word) (id : Nat), a = effectiveAddress s rs1 imm →
      id < 48 ∨ (id = 48 ∧ s.params.lint32 = true) →
      (a.toNat = 0x02800000 + id →
        ∃ t, exec (.lbu rd rs1 imm) s = .next t ∧ ClicLoaded s t 4#32 ∧ WritesReg s t rd fun v =>
          v = if (if id = 3 then s.clic.msip
                  else if id = 7 then decide (s.clic.mtimecmp.toNat ≤ s.mtime.toNat)
                  else if id = 11 then s.meipWire
                  else if id = 12 then s.clic.csip
                  else decide (16 ≤ id) && s.lintWires.getLsbD (id - 16)) then 1#32 else 0#32) ∧
      (a.toNat = 0x02800400 + id →
        ∃ t, exec (.lbu rd rs1 imm) s = .next t ∧ ClicLoaded s t 4#32 ∧ WritesReg s t rd fun v =>
          v = (if s.clic.ie.getLsbD id then 1#32 else 0#32) ∧
            (s.clic.reservedZero s.params → implementedId s.params id = false → v = 0#32)) ∧
      (a.toNat = 0x02800800 + id →
        ∃ t, exec (.lbu rd rs1 imm) s = .next t ∧ ClicLoaded s t 4#32 ∧ WritesReg s t rd fun v =>
          v.toNat = 64 * (s.clic.cfgOf id).toNat ∧
            (s.clic.reservedZero s.params → implementedId s.params id = false → v = 0#32)) ∧
      (a.toNat = 0x02800C00 →
        ∃ t, exec (.lbu rd rs1 imm) s = .next t ∧ ClicLoaded s t 4#32 ∧ WritesReg s t rd fun v =>
          v.toNat = 128 * s.clic.cliccfg7.toNat + 2 * s.clic.nlbits.toNat + s.clic.nvbits.toNat)) ∧
    (∀ (rd rs1 : Reg) (imm : BitVec 12) (a : Word), a = effectiveAddress s rs1 imm →
      (a = 0x02000000#32 →
        ∃ t, exec (.lw rd rs1 imm) s = .next t ∧ ClicLoaded s t 4#32 ∧ WritesReg s t rd fun v =>
          v = if s.clic.msip then 1#32 else 0#32) ∧
      (a = 0x02004000#32 →
        ∃ t, exec (.lw rd rs1 imm) s = .next t ∧ ClicLoaded s t 4#32 ∧ WritesReg s t rd fun v =>
          v.toNat = s.clic.mtimecmp.toNat % 2 ^ 32) ∧
      (a = 0x02004004#32 →
        ∃ t, exec (.lw rd rs1 imm) s = .next t ∧ ClicLoaded s t 4#32 ∧ WritesReg s t rd fun v =>
          v.toNat = s.clic.mtimecmp.toNat / 2 ^ 32) ∧
      (a = 0x0200BFF8#32 →
        ∃ t, exec (.lw rd rs1 imm) s = .next t ∧ ClicLoaded s t 4#32 ∧ WritesReg s t rd fun v =>
          v.toNat = s.mtime.toNat % 2 ^ 32) ∧
      (a = 0x0200BFFC#32 →
        ∃ t, exec (.lw rd rs1 imm) s = .next t ∧ ClicLoaded s t 4#32 ∧ WritesReg s t rd fun v =>
          v.toNat = s.mtime.toNat / 2 ^ 32)) ∧
    (∀ (i : Instr) (rd : Reg) (a : Word) (w : Size), LoadsFrom s i a w → LoadsInto i rd →
      a.toNat % w.bytes = 0 → InClic a → (∀ k < w.bytes, clicSlot s.params (a.toNat + k) ≠ none) →
      ∃ t, exec i s = .next t ∧ ClicLoaded s t (if (encode i).length = 4 then 4#32 else 2#32) ∧
        WritesReg s t rd fun _ => True)

/-- What SB and SW leave in the registers of the CLIC: the bits stored to, and no other; reserved and read-only
ones ignore the store; a store of any form to an implemented address completes (61 sections 2 and 5).  Bit 7 of
`cliccfg`, reserved and WPRI, keeps its value where the store carries it; that any other store leaves a free value
there, that a store to `mtime` opens no window for older values, and that stores of every width act byte by byte,
are the model's choice (notes/assumptions/22.md, 8.md). -/
def Obligations.ClicWrites : Prop :=
  ∀ (s : State), NoTrigger s .store →
    (∀ (rs2 rs1 : Reg) (imm : BitVec 12) (a v : Word) (id : Nat), a = effectiveAddress s rs1 imm →
      v = readReg s rs2 → id < 48 ∨ (id = 48 ∧ s.params.lint32 = true) →
      (a.toNat = 0x02800000 + id → id ≠ 3 → id ≠ 12 →
        ∃ t, exec (.sb rs2 rs1 imm) s = .next t ∧ ClicStored s t 4#32 ∧ t.clic = s.clic ∧ t.mtime = s.mtime) ∧
      (a.toNat = 0x02800000 + id → id = 12 →
        ∃ t, exec (.sb rs2 rs1 imm) s = .next t ∧ ClicStored s t 4#32 ∧ t.mtime = s.mtime ∧
          t.clic = { s.clic with csip := v.getLsbD 0 }) ∧
      (a.toNat = 0x02800400 + id →
        ∃ t, exec (.sb rs2 rs1 imm) s = .next t ∧ ClicStored s t 4#32 ∧ t.mtime = s.mtime ∧
          t.clic = { s.clic with ie := t.clic.ie } ∧
          ∀ j < 49, t.clic.ie.getLsbD j =
            if j = id ∧ implementedId s.params id = true then v.getLsbD 0 else s.clic.ie.getLsbD j) ∧
      (a.toNat = 0x02800800 + id →
        ∃ t, exec (.sb rs2 rs1 imm) s = .next t ∧ ClicStored s t 4#32 ∧ t.mtime = s.mtime ∧
          t.clic = { s.clic with cfg := t.clic.cfg } ∧
          ∀ j < 49, t.clic.cfgOf j =
            if j = id ∧ implementedId s.params id = true then v.extractLsb' 6 2 else s.clic.cfgOf j) ∧
      (a.toNat = 0x02800C00 →
        ∃ t, exec (.sb rs2 rs1 imm) s = .next t ∧ ClicStored s t 4#32 ∧ t.mtime = s.mtime ∧
          t.clic = { s.clic with
            nvbits := v.getLsbD 0, nlbits := v.extractLsb' 1 4, cliccfg7 := t.clic.cliccfg7 } ∧
          (v.getLsbD 7 = s.clic.cliccfg7 → t.clic.cliccfg7 = s.clic.cliccfg7))) ∧
    (∀ (rs2 rs1 : Reg) (imm : BitVec 12) (a v : Word), a = effectiveAddress s rs1 imm → v = readReg s rs2 →
      (a = 0x02004000#32 →
        ∃ t, exec (.sw rs2 rs1 imm) s = .next t ∧ ClicStored s t 4#32 ∧ t.mtime = s.mtime ∧
          t.clic = { s.clic with mtimecmp := s.clic.mtimecmp.extractLsb' 32 32 ++ v }) ∧
      (a = 0x02004004#32 →
        ∃ t, exec (.sw rs2 rs1 imm) s = .next t ∧ ClicStored s t 4#32 ∧ t.mtime = s.mtime ∧
          t.clic = { s.clic with mtimecmp := v ++ s.clic.mtimecmp.extractLsb' 0 32 }) ∧
      (a = 0x0200BFF8#32 →
        ∃ t, exec (.sw rs2 rs1 imm) s = .next t ∧ ClicStored s t 4#32 ∧ t.clic = s.clic ∧
          t.mtime = s.mtime.extractLsb' 32 32 ++ v) ∧
      (a = 0x0200BFFC#32 →
        ∃ t, exec (.sw rs2 rs1 imm) s = .next t ∧ ClicStored s t 4#32 ∧ t.clic = s.clic ∧
          t.mtime = v ++ s.mtime.extractLsb' 0 32)) ∧
    (∀ (i : Instr) (a : Word) (w : Size), StoresTo s i a w → a.toNat % w.bytes = 0 → InClic a →
      (∀ k < w.bytes, clicSlot s.params (a.toNat + k) ≠ none) →
      ∃ t, exec i s = .next t ∧ ClicStored s t (if (encode i).length = 4 then 4#32 else 2#32))

/-- `msip` and `clicintip[3]` are one bit: writable through either address, read at both and in `mip.MSIP`, 0
after reset; the other bits of `msip` read 0 (61 R503). -/
def Obligations.MsipIsOneBit : Prop :=
  State.reset.clic.msip = false ∧
  ∀ (s : State) (rd rs2 rs1 : Reg) (imm : BitVec 12) (a v : Word), a = effectiveAddress s rs1 imm →
    v = readReg s rs2 →
    (NoTrigger s .store → a = 0x02000000#32 →
      ∃ t, exec (.sw rs2 rs1 imm) s = .next t ∧ ClicStored s t 4#32 ∧ t.mtime = s.mtime ∧
        t.clic = { s.clic with msip := v.getLsbD 0 }) ∧
    (NoTrigger s .store → a = 0x02800003#32 →
      ∃ t, exec (.sb rs2 rs1 imm) s = .next t ∧ ClicStored s t 4#32 ∧ t.mtime = s.mtime ∧
        t.clic = { s.clic with msip := v.getLsbD 0 }) ∧
    (NoTrigger s .load → a = 0x02000000#32 →
      ∃ t, exec (.lw rd rs1 imm) s = .next t ∧ ClicLoaded s t 4#32 ∧ WritesReg s t rd fun u =>
        u = if s.clic.msip then 1#32 else 0#32) ∧
    (NoTrigger s .load → a = 0x02800003#32 →
      ∃ t, exec (.lbu rd rs1 imm) s = .next t ∧ ClicLoaded s t 4#32 ∧ WritesReg s t rd fun u =>
        u = if s.clic.msip then 1#32 else 0#32) ∧
    (clicMode s = false →
      ∃ t, exec (.csrrs rd 0#5 0x344#12) s = .next t ∧
        Computed s t rd 4#32 fun u => u.getLsbD 3 = s.clic.msip)

/-! ## Fetch -/

/-- An instruction fetch from the debug, CLIC or Reserved ranges, or that the platform answers with an error,
raises an instruction access fault with the address of the parcel that faulted in `mtval` (20 section 4). -/
def Obligations.FetchAccessFaults : Prop :=
  ∀ (s : State), NoTrigger s .fetch → HandlerAligned s →
    (FetchFaults s s.pc → ∃ t, fetchAndRun s = .next t ∧ ExceptionEntered s t 1#10 s.pc) ∧
    (ReadablePort s s.pc → parcelIsFull (parcelAt s s.pc.toNat) = true → FetchFaults s (s.pc + 2#32) →
      ∃ t, fetchAndRun s = .next t ∧ ExceptionEntered s t 1#10 (s.pc + 2#32))

/-- An unprogrammed part: with `mtvec` = 0, a fetch at address 0 faults and traps to address 0, at every step,
forever (60 section 6; 20 section 3). -/
def Obligations.TrapLoopAtZero : Prop :=
  ∀ (s : State) (k : Nat), s.debugMode = false → s.waiting = false → s.dcsrStep = false →
    s.pc = 0#32 → s.mtvec = 0#32 → s.mstatusMie = false → NoTrigger s .fetch →
    ∃ t, core.run (k + 1) s = .next t ∧ t.pc = 0#32 ∧ t.mepc = 0#32 ∧ t.mcauseInterrupt = false ∧
      t.mcauseCode = 1#10 ∧ t.mtval = 0#32 ∧ t.minstret = s.minstret ∧ t.x = s.x ∧ SameMemory s t

/-- A store that no FENCE.I has followed is seen by a fetch of a parcel wholly or not at all, and FENCE.I makes
every fetch see memory as it is (20 section 6; 43 section 1). -/
def Obligations.StoreThenFetch : Prop :=
  ∀ (s t : State) (i : Instr) (a : Word) (w : Size), s.unfenced = [] → StoresTo s i a w → exec i s = .next t →
    (∀ b, parcelAt t b = Memory.read s.mem (b + 1) ++ Memory.read s.mem b ∨
      parcelAt t b = Memory.read t.mem (b + 1) ++ Memory.read t.mem b) ∧
    ∀ (imm : BitVec 12) (rs1 rd : Reg),
      ∃ u, exec (.fenceI imm rs1 rd) t = .next u ∧
        ∀ b, parcelAt u b = Memory.read t.mem (b + 1) ++ Memory.read t.mem b

/-! ## System instructions and traps -/

/-- FENCE in every form, and C.NOP with its hints, only go on to the next instruction (43 R310; 45 R365). -/
def Obligations.FencesAndNops : Prop :=
  ∀ (s : State) (fm pred succ : BitVec 4) (rs1 rd : Reg) (i5 : BitVec 1) (i4 : BitVec 5) (imm : BitVec 6),
    decode (.full (fm ++ pred ++ succ ++ rs1 ++ 0b000#3 ++ rd ++ 0b0001111#7)) = .ok (.fence fm pred succ rs1 rd) ∧
    (∃ t, exec (.fence fm pred succ rs1 rd) s = .next t ∧ WentTo s t (s.pc + 4#32)) ∧
    decode (.half (0b000#3 ++ i5 ++ 0b00000#5 ++ i4 ++ 0b01#2)) = .ok (.cNop (i5 ++ i4)) ∧
    (∃ t, exec (.cNop imm) s = .next t ∧ WentTo s t (s.pc + 2#32))

/-- FENCE.I goes on to the next instruction and discards what was fetched ahead.  WFI retires or stays, and stays
only where no interrupt is pending and locally enabled; a hart that stays retires later, and the interrupt that can
be taken then is taken with the following instruction in `mepc` (43 sections 1 and 3).  That the retirement and
that interrupt are one step, and that the wake-up condition looks at the CLIC registers themselves while a store to
them is on its way, are the model's choice (notes/assumptions/13.md). -/
def Obligations.FenceIAndWfi : Prop :=
  ∀ (s : State) (imm : BitVec 12) (rs1 rd : Reg),
    decode (.full (imm ++ rs1 ++ 0b001#3 ++ rd ++ 0b0001111#7)) = .ok (.fenceI imm rs1 rd) ∧
    (∃ t, exec (.fenceI imm rs1 rd) s = .next t ∧ t.unfenced = [] ∧
      t = { s with unfenced := [], pc := s.pc + 4#32, minstret := s.minstret + 1#64 } ∧ SameMemory s t) ∧
    decode (.full 0x10500073#32) = .ok .wfi ∧
    (wakeUp s = true ↔
      (clicMode s = false ∧ csrRead s .mip &&& csrRead s .mie ≠ 0#32) ∨
        (clicMode s = true ∧ ∃ id, pendingNow s id = true ∧ s.clic.ie.getLsbD id = true)) ∧
    (∃ t, exec .wfi s = .next t ∧ SameMemory s t ∧
      (t = { s with waiting := false, pc := s.pc + 4#32, minstret := s.minstret + 1#64 } ∨
        (wakeUp s = false ∧ t = { s with waiting := true }))) ∧
    ∀ b r : State, s.waiting = true → s.debugMode = false → s.dcsrStep = false → s.pc.getLsbD 0 = false →
      b = passBoundary s →
      r = { b with waiting := false, pc := s.pc + 4#32, minstret := s.minstret + 1#64 } →
      wakeUp b = true ∨ step s ≠ .next b →
      (interruptDecision r = .noInterrupt → step s = .next r) ∧
      ∀ id, interruptDecision r = .take id → step s = takeInterrupt r id

/-- ECALL takes the environment-call exception and does not retire (43 R312). -/
def Obligations.EcallTraps : Prop :=
  decode (.full 0x00000073#32) = .ok .ecall ∧
  ∀ s : State, HandlerAligned s → TakesException .ecall s 11#10 0#32

/-- EBREAK and C.EBREAK take the breakpoint exception, with the pc or 0 in `mtval`, unless a debugger has set
`dcsr.ebreakm`: then they enter debug mode (43 R313; 45 R385).  That both write the same trap value, and what they
do in debug mode, are the model's choice (notes/assumptions/11.md, 6.md). -/
def Obligations.EbreakTraps : Prop :=
  decode (.full 0x00100073#32) = .ok .ebreak ∧ decode (.half 0x9002#16) = .ok .cEbreak ∧
  ∀ s : State,
    (s.dcsrEbreakm = false → HandlerAligned s →
      ∃ tval, (tval = s.pc ∨ tval = 0#32) ∧ TakesException .ebreak s 3#10 tval ∧
        TakesException .cEbreak s 3#10 tval) ∧
    (s.dcsrEbreakm = true →
      (∃ t, exec .ebreak s = .next t ∧ DebugEntered s t) ∧ ∃ t, exec .cEbreak s = .next t ∧ DebugEntered s t)

/-- DRET is illegal outside debug mode; in it, it resumes at `dpc` (43 R318).  That bit 0 of `dpc` is cleared on
the way, and that DRET in debug mode is not counted, are the model's choice (notes/assumptions/6.md, 18.md). -/
def Obligations.DretOutcome : Prop :=
  decode (.full 0x7B200073#32) = .ok .dret ∧
  ∀ s : State,
    (s.debugMode = false → HandlerAligned s →
      ∃ tval, (tval = 0#32 ∨ tval = 0x7B200073#32) ∧ TakesException .dret s 2#10 tval) ∧
    (s.debugMode = true →
      ∃ t, exec .dret s = .next t ∧ t.pc.toNat = s.dpc.toNat / 2 * 2 ∧ SameMemory s t ∧
        t = { s with pc := t.pc, debugMode := false })

/-- Every word that the decoder rejects, and the all-zero halfword, raise the illegal-instruction exception and
have no other effect (30 R210, R211; 45 R389). -/
def Obligations.UndecodedWordsTrap : Prop :=
  decode (.half 0x0000#16) = .ok .cIllegal ∧
  ∀ s : State, HandlerAligned s →
    TakesException .cIllegal s 2#10 0#32 ∧
    RaisesIllegal s (.full 0xFFFFFFFF#32) ∧
    ∀ (e : Encoded) (err : DecodeError), decode e = .error err → RaisesIllegal s e

/-- The reserved compressed encodings, the encodings of the extensions the E20 lacks, and the SYSTEM words it
lacks are illegal (30 R212, R213, R215; 43 R319). -/
def Obligations.ReservedEncodingsTrap : Prop :=
  ∀ s : State, HandlerAligned s →
    (∀ w : BitVec 16,
      (w.extractLsb' 0 2 = 0b00#2 →
        (w.extractLsb' 13 3 = 0b000#3 ∧ w.extractLsb' 5 8 = 0#8) ∨ w.extractLsb' 13 3 = 0b100#3 ∨
          w.extractLsb' 13 3 = 0b001#3 ∨ w.extractLsb' 13 3 = 0b011#3 ∨ w.extractLsb' 13 3 = 0b101#3 ∨
          w.extractLsb' 13 3 = 0b111#3 →
        RaisesIllegal s (.half w)) ∧
      (w.extractLsb' 0 2 = 0b01#2 →
        (w.extractLsb' 13 3 = 0b011#3 ∧ w.extractLsb' 12 1 = 0#1 ∧ w.extractLsb' 2 5 = 0#5) ∨
          (w.extractLsb' 13 3 = 0b100#3 ∧ w.extractLsb' 10 3 = 0b111#3) ∨
          (w.extractLsb' 13 3 = 0b100#3 ∧ w.extractLsb' 11 1 = 0#1 ∧ w.extractLsb' 12 1 = 1#1) →
        RaisesIllegal s (.half w)) ∧
      (w.extractLsb' 0 2 = 0b10#2 →
        (w.extractLsb' 13 3 = 0b010#3 ∧ w.extractLsb' 7 5 = 0#5) ∨ w = 0x8002#16 ∨
          (w.extractLsb' 13 3 = 0b000#3 ∧ w.extractLsb' 12 1 = 1#1) ∨
          w.extractLsb' 13 3 = 0b001#3 ∨ w.extractLsb' 13 3 = 0b011#3 ∨ w.extractLsb' 13 3 = 0b101#3 ∨
          w.extractLsb' 13 3 = 0b111#3 →
        RaisesIllegal s (.half w))) ∧
    (∀ w : BitVec 32,
      w.extractLsb' 0 7 ∈ [0b0101111#7, 0b0000111#7, 0b0100111#7, 0b1000011#7, 0b1000111#7, 0b1001011#7,
        0b1001111#7, 0b1010011#7, 0b0011011#7, 0b0111011#7, 0b0001011#7, 0b0101011#7, 0b1011011#7, 0b1111011#7] ∨
      (w.extractLsb' 0 7 = 0b0000011#7 ∧ (w.extractLsb' 12 3 = 0b011#3 ∨ w.extractLsb' 12 3 = 0b110#3)) ∨
      (w.extractLsb' 0 7 = 0b0100011#7 ∧ w.extractLsb' 12 3 = 0b011#3) ∨
      (w.extractLsb' 0 7 = 0b1110011#7 ∧ w.extractLsb' 12 3 = 0b000#3 ∧
        w ∉ [0x00000073#32, 0x00100073#32, 0x30200073#32, 0x10500073#32, 0x7B200073#32]) →
      RaisesIllegal s (.full w))

/-- Trap entry as one atomic step: what a synchronous exception and an interrupt save and change, where the pc goes,
and nothing else (60 R440, R443 to R448; 20 R161).  That the level an interrupt brings and its vectoring come from
the CLIC registers as the interrupt logic sees them, where a store to them is still on its way, and that no trigger
watches the read of the vector table, are the model's choice (notes/assumptions/8.md, 16.md). -/
def Obligations.TrapEntry : Prop :=
  ∀ s : State, HandlerAligned s →
    (∀ (c : ExceptionCause) (tval : Word),
      ∃ t, takeException s c tval = .next t ∧ ExceptionEntered s t c.code tval) ∧
    (∀ id : Nat, id < 49 →
      (clicMode s = false →
        ∃ t, takeInterrupt s id = .next t ∧ InterruptEntered s t id ∧
          t.pc.toNat = (s.mtvec.toNat / 64 * 64 + if s.mtvec.getLsbD 0 then 4 * id else 0) % 2 ^ 32) ∧
      (clicMode s = true → hardwareVectored s id = false →
        ∃ t, takeInterrupt s id = .next t ∧ InterruptEntered s t id ∧ t.pc.toNat = s.mtvec.toNat / 64 * 64) ∧
      (∀ a : Word, clicMode s = true → hardwareVectored s id = true → s.mtvt.toNat % 64 = 0 →
        a = s.mtvt + BitVec.ofNat 32 (4 * id) → ReadablePort s a →
        ∃ t, takeInterrupt s id = .next t ∧ InterruptEntered s t id ∧ t.mcauseMinhv = false ∧
          t.pc = (Memory.read s.mem (a.toNat + 3) ++ Memory.read s.mem (a.toNat + 2)
            ++ Memory.read s.mem (a.toNat + 1) ++ Memory.read s.mem a.toNat) &&& 0xFFFFFFFE#32))

/-- MRET: level, interrupt enables and pc come from the saved ones; with `minhv` set in CLIC mode, or on an
illegal cause written to `mcause`, it has no meaning (43 R316; 60 R449, R470; 93 U2).  That a cause counts as
illegal until something makes it legal again is the model's reading of U2 (notes/assumptions/12.md). -/
def Obligations.MretRestores : Prop :=
  decode (.full 0x30200073#32) = .ok .mret ∧
  ∀ s : State,
    (clicMode s = true → s.mcauseMinhv = true → exec .mret s = .refused .mretMinhv) ∧
    (¬ (clicMode s = true ∧ s.mcauseMinhv = true) → legalCause s.params s.mcauseInterrupt s.mcauseCode = false →
      exec .mret s = .refused .mcauseCodeIllegal) ∧
    (¬ (clicMode s = true ∧ s.mcauseMinhv = true) → legalCause s.params s.mcauseInterrupt s.mcauseCode = true →
      ∃ t, exec .mret s = .next t ∧ t.pc = s.mepc ∧ t.mstatusMie = s.mstatusMpie ∧ t.mstatusMpie = true ∧
        t.mil = (if clicMode s then s.mcauseMpil else s.mil) ∧ SameMemory s t ∧
        t = { s with
          pc := t.pc, mstatusMie := t.mstatusMie, mstatusMpie := t.mstatusMpie, mil := t.mil,
          minstret := s.minstret + 1#64 })

/-- A trap followed at once by MRET resumes what was interrupted: the pc, the interrupt enable, the level, the
registers and memory are those before the trap, and `mstatus` reads as before but for MPIE = 1 (60 sections 3
and 6). -/
def Obligations.TrapThenMretResumes : Prop :=
  ∀ s : State, HandlerAligned s → s.mcauseMinhv = false →
    (∀ (c : ExceptionCause) (tval : Word), ∃ t u, takeException s c tval = .next t ∧ exec .mret t = .next u ∧
      u.pc = s.pc ∧ u.mstatusMie = s.mstatusMie ∧ u.mil = s.mil ∧ u.x = s.x ∧ SameMemory s u ∧
      csrRead u .mstatus = csrRead s .mstatus ||| 0x80#32) ∧
    (∀ (id : Nat) (t : State), implementedId s.params id = true → takeInterrupt s id = .next t →
      ∃ u, exec .mret t = .next u ∧ u.pc = s.pc ∧ u.mstatusMie = s.mstatusMie ∧ u.mil = s.mil ∧ u.x = s.x ∧
        SameMemory s u ∧ csrRead u .mstatus = csrRead s .mstatus ||| 0x80#32)

/-! ## CSRs -/

/-- The six CSR instructions on `mscratch`, a plain register: the old value to `rd`, the new value written, set
or cleared, and no write where the number of the source register or the immediate is 0 (10 R71; 43 section 4). -/
def Obligations.CsrFormsOnMscratch : Prop :=
  ∀ (s : State) (rd rs1 : Reg) (uimm : BitVec 5) (a old : Word), a = readReg s rs1 → old = s.mscratch →
    (∃ t, exec (.csrrw rd rs1 0x340#12) s = .next t ∧ WritesReg s t rd (fun v => v = old) ∧ SameMemory s t ∧
      t = { s with x := t.x, mscratch := a, pc := s.pc + 4#32, minstret := s.minstret + 1#64 }) ∧
    (∃ t, exec (.csrrs rd rs1 0x340#12) s = .next t ∧ WritesReg s t rd (fun v => v = old) ∧ SameMemory s t ∧
      t = { s with
        x := t.x, mscratch := (if rs1 = 0#5 then old else old ||| a), pc := s.pc + 4#32,
        minstret := s.minstret + 1#64 }) ∧
    (∃ t, exec (.csrrc rd rs1 0x340#12) s = .next t ∧ WritesReg s t rd (fun v => v = old) ∧ SameMemory s t ∧
      t = { s with
        x := t.x, mscratch := (if rs1 = 0#5 then old else old &&& ~~~a), pc := s.pc + 4#32,
        minstret := s.minstret + 1#64 }) ∧
    (∃ t, exec (.csrrwi rd uimm 0x340#12) s = .next t ∧ WritesReg s t rd (fun v => v = old) ∧ SameMemory s t ∧
      t = { s with
        x := t.x, mscratch := uimm.setWidth 32, pc := s.pc + 4#32, minstret := s.minstret + 1#64 }) ∧
    (∃ t, exec (.csrrsi rd uimm 0x340#12) s = .next t ∧ WritesReg s t rd (fun v => v = old) ∧ SameMemory s t ∧
      t = { s with
        x := t.x, mscratch := old ||| uimm.setWidth 32, pc := s.pc + 4#32, minstret := s.minstret + 1#64 }) ∧
    (∃ t, exec (.csrrci rd uimm 0x340#12) s = .next t ∧ WritesReg s t rd (fun v => v = old) ∧ SameMemory s t ∧
      t = { s with
        x := t.x, mscratch := old &&& ~~~(uimm.setWidth 32), pc := s.pc + 4#32,
        minstret := s.minstret + 1#64 })

/-- The checks of a CSR access: an address that does not exist, a debug-mode CSR outside debug mode, a write to a
read-only address, a trigger owned by debug mode: each is an illegal instruction; writes to read-only registers
at writable addresses are not errors and change nothing (43 R327). -/
def Obligations.CsrChecks : Prop :=
  ∀ (s : State) (i : Instr) (csr : BitVec 12) (writes : Bool), AccessesCsr i csr writes →
    (HandlerAligned s →
      csrOf csr = none ∨ csr = 0x302#12 ∨ csr = 0x303#12 ∨ csr.toNat < 0x300 ∨
        (0x7B0 ≤ csr.toNat ∧ csr.toNat ≤ 0x7BF ∧ s.debugMode = false) ∨
        (writes = true ∧ csr.extractLsb' 10 2 = 0b11#2) ∨
        ((csr = 0x7A1#12 ∨ csr = 0x7A2#12 ∨ csr = 0x7A3#12) ∧ s.debugMode = false ∧
          (s.triggers.get s.tselect.toFin).dmode = true) →
      ∃ tval, (tval = 0#32 ∨ tval = (encode i).bits) ∧ TakesException i s 2#10 tval) ∧
    (∀ (rd : Reg) (c : Csr), CsrInto i rd → csrOf csr = some c → c = .mip ∨ c = .mintstatus ∨ c = .misa →
      ∃ t, exec i s = .next t ∧ Computed s t rd 4#32 fun v => v = csrRead s c)

/-- `mstatus` by the six CSR instructions: a read shows MIE in bit 3, MPIE in bit 7, MPP = 0b11 and zeros elsewhere;
a write, a set and a clear reach MIE and MPIE only, and an immediate MIE alone of the two (10 R61, R62; 43 section
4; 60 section 6). -/
def Obligations.MstatusAccess : Prop :=
  ∀ (s : State) (rd rs1 : Reg) (uimm : BitVec 5) (v : Word) (reads : State → Prop) (sets : Bool → Bool → State → State),
    v = readReg s rs1 →
    (reads = fun t => SameMemory s t ∧ WritesReg s t rd fun old => ∀ k < 32, old.getLsbD k =
      if k = 3 then s.mstatusMie else if k = 7 then s.mstatusMpie else decide (k = 11 ∨ k = 12)) →
    (sets = fun mie mpie t => { s with
      x := t.x, mstatusMie := mie, mstatusMpie := mpie, pc := s.pc + 4#32, minstret := s.minstret + 1#64 }) →
    (∃ t, exec (.csrrw rd rs1 0x300#12) s = .next t ∧ reads t ∧ t = sets (v.getLsbD 3) (v.getLsbD 7) t) ∧
    (∃ t, exec (.csrrs rd rs1 0x300#12) s = .next t ∧ reads t ∧
      t = sets (s.mstatusMie || v.getLsbD 3) (s.mstatusMpie || v.getLsbD 7) t) ∧
    (∃ t, exec (.csrrc rd rs1 0x300#12) s = .next t ∧ reads t ∧
      t = sets (s.mstatusMie && !v.getLsbD 3) (s.mstatusMpie && !v.getLsbD 7) t) ∧
    (∃ t, exec (.csrrwi rd uimm 0x300#12) s = .next t ∧ reads t ∧ t = sets (uimm.getLsbD 3) false t) ∧
    (∃ t, exec (.csrrsi rd uimm 0x300#12) s = .next t ∧ reads t ∧
      t = sets (s.mstatusMie || uimm.getLsbD 3) s.mstatusMpie t) ∧
    (∃ t, exec (.csrrci rd uimm 0x300#12) s = .next t ∧ reads t ∧
      t = sets (s.mstatusMie && !uimm.getLsbD 3) s.mstatusMpie t)

/-- `mie` and `mip`: three enable and three pending bits outside CLIC mode, zero in it; `mie` is written outside
CLIC mode only, `mip` never (10 R66, R67). -/
def Obligations.MieAndMip : Prop :=
  ∀ (s : State) (rd rs1 : Reg) (v : Word), v = readReg s rs1 →
    (clicMode s = false →
      (∃ t, exec (.csrrw rd rs1 0x304#12) s = .next t ∧
        (WritesReg s t rd fun old => ∀ k < 32, old.getLsbD k =
          if k = 3 then s.mieMsie else if k = 7 then s.mieMtie else if k = 11 then s.mieMeie else false) ∧
        SameMemory s t ∧
        t = { s with
          x := t.x, mieMsie := v.getLsbD 3, mieMtie := v.getLsbD 7, mieMeie := v.getLsbD 11, pc := s.pc + 4#32,
          minstret := s.minstret + 1#64 }) ∧
      (∃ t, exec (.csrrw rd rs1 0x344#12) s = .next t ∧
        Computed s t rd 4#32 fun old => ∀ k < 32, old.getLsbD k =
          if k = 3 then s.clic.msip
          else if k = 7 then decide (s.clic.mtimecmp.toNat ≤ s.mtime.toNat)
          else if k = 11 then s.meipWire else false)) ∧
    (clicMode s = true →
      (∃ t, exec (.csrrw rd rs1 0x304#12) s = .next t ∧ Computed s t rd 4#32 fun old => old = 0#32) ∧
      (∃ t, exec (.csrrw rd rs1 0x344#12) s = .next t ∧ Computed s t rd 4#32 fun old => old = 0#32))

/-- `mcause`: in CLIC mode its bit 23 is `mstatus.MPIE` and bits 29:28 read 0b11; outside it only the Interrupt
bit and the code read other than 0, and a write reaches nothing else (10 R73, R74, R76).  A read after a write of
an illegal cause has no meaning (93 U2).  A write in CLIC mode sets the saved level whose image it carries, if that
image has been read before, and has no meaning if not (10 R75); what counts as having been read is the model's
choice (notes/assumptions/10.md). -/
def Obligations.McauseAccess : Prop :=
  ∀ (s : State) (rd rs1 : Reg) (v : Word) (legal : Bool), v = readReg s rs1 →
    legal = legalCause s.params s.mcauseInterrupt s.mcauseCode →
    (legal = true →
      ∃ t, exec (.csrrs rd 0#5 0x342#12) s = .next t ∧ SameMemory s t ∧
        WritesReg s t rd (fun u =>
          u.getLsbD 31 = s.mcauseInterrupt ∧ u.extractLsb' 0 10 = s.mcauseCode ∧ u.extractLsb' 10 13 = 0#13 ∧
          (clicMode s = true →
            u.getLsbD 23 = s.mstatusMpie ∧ u.extractLsb' 28 2 = 0b11#2 ∧ u.getLsbD 30 = s.mcauseMinhv) ∧
          (clicMode s = false → u.extractLsb' 10 21 = 0#21)) ∧
        (clicMode s = false → t.mpilSeen = s.mpilSeen) ∧
        t = { s with x := t.x, mpilSeen := t.mpilSeen, pc := s.pc + 4#32, minstret := s.minstret + 1#64 }) ∧
    (legal = false →
      exec (.csrrs rd 0#5 0x342#12) s = .refused .mcauseCodeIllegal ∧
      (rd ≠ 0#5 → exec (.csrrw rd rs1 0x342#12) s = .refused .mcauseCodeIllegal)) ∧
    (clicMode s = false → legal = true ∨ rd = 0#5 →
      ∃ t, exec (.csrrw rd rs1 0x342#12) s = .next t ∧ SameMemory s t ∧
        WritesReg s t rd (fun u => u = csrRead s .mcause) ∧
        t = { s with
          x := t.x, mcauseInterrupt := v.getLsbD 31, mcauseCode := v.extractLsb' 0 10, pc := s.pc + 4#32,
          minstret := s.minstret + 1#64 }) ∧
    (∀ level, clicMode s = true → legal = true ∨ rd = 0#5 → v.getLsbD 30 = false →
      levelOfImage (v.extractLsb' 24 4) = some level → s.mpilSeen.getLsbD (level.toNat / 16) = true →
      ∃ t, exec (.csrrw rd rs1 0x342#12) s = .next t ∧ SameMemory s t ∧
        WritesReg s t rd (fun u => u = csrRead s .mcause) ∧
        t = { s with
          x := t.x, mcauseInterrupt := v.getLsbD 31, mcauseMinhv := false, mcauseMpil := level,
          mpilSeen := t.mpilSeen, mstatusMpie := v.getLsbD 23, mcauseCode := v.extractLsb' 0 10,
          pc := s.pc + 4#32, minstret := s.minstret + 1#64 }) ∧
    (clicMode s = true → v.getLsbD 30 = false →
      (∀ level, levelOfImage (v.extractLsb' 24 4) = some level → s.mpilSeen.getLsbD (level.toNat / 16) = false) →
      exec (.csrrw 0#5 rs1 0x342#12) s = .refused .mpilImageUnknown) ∧
    (clicMode s = true → v.getLsbD 30 = true → exec (.csrrw 0#5 rs1 0x342#12) s = .refused .minhvWrite)

/-- The round trip of a handler: a value read from `mcause` and written back later, in whatever state of the same
mode with whatever level saved since, leaves `mcause` and the level MRET restores as they were when it was read,
whatever the image of the levels (10 section 5.5).  That the level comes back exactly, not only as one that gates
alike, is the model's choice among what R75 allows (notes/assumptions/10.md). -/
def Obligations.McauseRoundTrip : Prop :=
  ∀ (s : State) (rd : Reg), rd ≠ 0#5 → legalLevel s.mcauseMpil = true → s.mcauseMinhv = false →
    legalCause s.params s.mcauseInterrupt s.mcauseCode = true →
    ∃ t, exec (.csrrs rd 0#5 0x342#12) s = .next t ∧
      ∀ (later : State) (rs1 : Reg), readReg later rs1 = readReg t rd →
        (clicMode s = true → clicMode later = true → later.mpilSeen &&& t.mpilSeen = t.mpilSeen →
          ∃ u, exec (.csrrw 0#5 rs1 0x342#12) later = .next u ∧ SameMemory later u ∧
            u = { later with
              mcauseInterrupt := s.mcauseInterrupt, mcauseCode := s.mcauseCode, mcauseMpil := s.mcauseMpil,
              mcauseMinhv := false, mstatusMpie := s.mstatusMpie, pc := later.pc + 4#32,
              minstret := later.minstret + 1#64 }) ∧
        (clicMode s = false → clicMode later = false →
          ∃ u, exec (.csrrw 0#5 rs1 0x342#12) later = .next u ∧ SameMemory later u ∧
            u = { later with
              mcauseInterrupt := s.mcauseInterrupt, mcauseCode := s.mcauseCode, pc := later.pc + 4#32,
              minstret := later.minstret + 1#64 })

/-- `mepc` keeps bit 0 clear, `mtval` and `mtvt` hold what is written; `mtvec` holds it too, unless it would switch
between CLIC and non-CLIC with MIE = 1, which has no meaning; `misa` reads 0x40001104, or 0 where the parameter says
so, and ignores writes; `mhartid`, the unused counters and their event selectors read 0 and the latter ignore writes
(10 sections 5.2, 5.4, 5.5 and 5.7; 70 section 2).  That `mtvec` and `mtvt` hold the low bits written, and that a
change of bit 0 of MODE alone is no switch, are the model's choice (notes/assumptions/12.md, 17.md). -/
def Obligations.PlainCsrs : Prop :=
  ∀ (s : State) (rd rs1 : Reg) (v : Word), v = readReg s rs1 →
    (∃ t, exec (.csrrw rd rs1 0x341#12) s = .next t ∧ WritesReg s t rd (fun u => u = s.mepc) ∧ SameMemory s t ∧
      t.mepc.toNat = v.toNat / 2 * 2 ∧
      t = { s with x := t.x, mepc := t.mepc, pc := s.pc + 4#32, minstret := s.minstret + 1#64 }) ∧
    (∃ t, exec (.csrrw rd rs1 0x343#12) s = .next t ∧ WritesReg s t rd (fun u => u = s.mtval) ∧ SameMemory s t ∧
      t = { s with x := t.x, mtval := v, pc := s.pc + 4#32, minstret := s.minstret + 1#64 }) ∧
    (s.mtvt.toNat % 64 = 0 →
      ∃ t, exec (.csrrw rd rs1 0x307#12) s = .next t ∧ WritesReg s t rd (fun u => u = s.mtvt) ∧ SameMemory s t ∧
        t = { s with x := t.x, mtvt := v, pc := s.pc + 4#32, minstret := s.minstret + 1#64 }) ∧
    (HandlerAligned s → s.mstatusMie = false ∨ s.mtvec.getLsbD 1 = v.getLsbD 1 →
      ∃ t, exec (.csrrw rd rs1 0x305#12) s = .next t ∧ WritesReg s t rd (fun u => u = s.mtvec) ∧ SameMemory s t ∧
        (s.mtvec.getLsbD 1 = false ∨ v.getLsbD 1 = true →
          t.mieMsie = s.mieMsie ∧ t.mieMtie = s.mieMtie ∧ t.mieMeie = s.mieMeie) ∧
        t = { s with
          x := t.x, mtvec := v, mieMsie := t.mieMsie, mieMtie := t.mieMtie, mieMeie := t.mieMeie,
          pc := s.pc + 4#32, minstret := s.minstret + 1#64 }) ∧
    (s.mstatusMie = true → s.mtvec.getLsbD 1 ≠ v.getLsbD 1 →
      exec (.csrrw rd rs1 0x305#12) s = .refused .modeSwitchWithMie) ∧
    (∃ t, exec (.csrrw rd rs1 0x301#12) s = .next t ∧
      Computed s t rd 4#32 fun u => u = if s.params.misaZero then 0#32 else 0x40001104#32) ∧
    (∃ t, exec (.csrrs rd 0#5 0xF14#12) s = .next t ∧ Computed s t rd 4#32 fun u => u = 0#32) ∧
    (∀ csr : BitVec 12,
      (0xB03 ≤ csr.toNat ∧ csr.toNat ≤ 0xB1F) ∨ (0xB83 ≤ csr.toNat ∧ csr.toNat ≤ 0xB9F) ∨
        (0x323 ≤ csr.toNat ∧ csr.toNat ≤ 0x33F) →
      ∃ t, exec (.csrrw rd rs1 csr) s = .next t ∧ Computed s t rd 4#32 fun u => u = 0#32)

/-- The two counters.  A read of either half returns the count before the reading instruction, through the machine
name and the user one; a write to half of `minstret` is not followed by the increment (for the high half a reading
of the spec, notes/assumptions/15.md).  A write to half of `mcycle` sets that half and leaves the other; a step
changes where it counts from only by such a write, and with none between, the 64-bit count never decreases but by
passing 2^64 (10 section 5.7).  That the count is a base plus opaque draws is the model's reading of R92
(notes/assumptions/5.md). -/
def Obligations.CounterAccess : Prop :=
  ∀ (s : State) (rd rs1 : Reg) (v : Word), v = readReg s rs1 →
    (∀ csr : BitVec 12, csr = 0xB02#12 ∨ csr = 0xC02#12 →
      ∃ t, exec (.csrrs rd 0#5 csr) s = .next t ∧
        Computed s t rd 4#32 fun u => u.toNat = s.minstret.toNat % 2 ^ 32) ∧
    (∀ csr : BitVec 12, csr = 0xB82#12 ∨ csr = 0xC82#12 →
      ∃ t, exec (.csrrs rd 0#5 csr) s = .next t ∧
        Computed s t rd 4#32 fun u => u.toNat = s.minstret.toNat / 2 ^ 32) ∧
    (∃ t, exec (.csrrw rd rs1 0xB02#12) s = .next t ∧ SameMemory s t ∧
      WritesReg s t rd (fun u => u = csrRead s .minstret) ∧
      t.minstret.toNat = s.minstret.toNat / 2 ^ 32 * 2 ^ 32 + v.toNat ∧
      t = { s with x := t.x, minstret := t.minstret, pc := s.pc + 4#32 }) ∧
    (∃ t, exec (.csrrw rd rs1 0xB82#12) s = .next t ∧ SameMemory s t ∧
      WritesReg s t rd (fun u => u = csrRead s .minstreth) ∧
      t.minstret.toNat = v.toNat * 2 ^ 32 + s.minstret.toNat % 2 ^ 32 ∧
      t = { s with x := t.x, minstret := t.minstret, pc := s.pc + 4#32 }) ∧
    (∃ t, exec (.csrrw rd rs1 0xB00#12) s = .next t ∧ SameMemory s t ∧
      WritesReg s t rd (fun u => u = csrRead s .mcycle) ∧
      (cycleCount t).toNat = (cycleCount s).toNat / 2 ^ 32 * 2 ^ 32 + v.toNat ∧
      t = { s with x := t.x, mcycleBase := t.mcycleBase, pc := s.pc + 4#32, minstret := s.minstret + 1#64 }) ∧
    (∃ t, exec (.csrrw rd rs1 0xB80#12) s = .next t ∧ SameMemory s t ∧
      WritesReg s t rd (fun u => u = csrRead s .mcycleh) ∧
      (cycleCount t).toNat = v.toNat * 2 ^ 32 + (cycleCount s).toNat % 2 ^ 32 ∧
      t = { s with x := t.x, mcycleBase := t.mcycleBase, pc := s.pc + 4#32, minstret := s.minstret + 1#64 }) ∧
    (∀ csr : BitVec 12, csr = 0xB00#12 ∨ csr = 0xC00#12 →
      ∃ t, exec (.csrrs rd 0#5 csr) s = .next t ∧
        Computed s t rd 4#32 fun u => u.toNat = (cycleCount s).toNat % 2 ^ 32) ∧
    (∀ csr : BitVec 12, csr = 0xB80#12 ∨ csr = 0xC80#12 →
      ∃ t, exec (.csrrs rd 0#5 csr) s = .next t ∧
        Computed s t rd 4#32 fun u => u.toNat = (cycleCount s).toNat / 2 ^ 32) ∧
    (∀ t : State, step s = .next t → t.mcycleBase ≠ s.mcycleBase →
      ∃ e i, fetch (passBoundary s) = .ok e ∧ decode e = .ok i ∧
        (AccessesCsr i 0xB00#12 true ∨ AccessesCsr i 0xB80#12 true)) ∧
    (∀ t : State, Reaches s t → t.mcycleBase = s.mcycleBase →
      ∃ n : Nat, cyclesBefore t.boundary = cyclesBefore s.boundary + n ∧
        cycleCount t = cycleCount s + BitVec.ofNat 64 n ∧
        ((cycleCount s).toNat + n < 2 ^ 64 → (cycleCount s).toNat ≤ (cycleCount t).toNat))

/-- The interrupt level changes only by an interrupt taken in CLIC mode, by MRET in CLIC mode and by an access to
`mnxti`, and is 0 after reset (10 R85).  That the level an interrupt or `mnxti` brings is the one the interrupt logic
sees is the model's choice (notes/assumptions/8.md, 23.md). -/
def Obligations.LevelChangesOnlyBy : Prop :=
  State.reset.mil = 0#8 ∧
  (∀ (s : State) (rd : Reg), ∃ t, exec (.csrrs rd 0#5 0x346#12) s = .next t ∧
    Computed s t rd 4#32 fun v => v.toNat = s.mil.toNat * 2 ^ 24) ∧
  (∀ (i : Instr) (s t : State), exec i s = .next t → t.mil ≠ s.mil →
    clicMode s = true ∧ ((i = .mret ∧ t.mil = s.mcauseMpil) ∨ ∃ w, AccessesCsr i 0x345#12 true ∧ winner s = some w ∧
      t.mil = levelSeen s w)) ∧
  (∀ (s t : State) (id : Nat), takeInterrupt s id = .next t → t.mil ≠ s.mil →
    clicMode s = true ∧ t.mil = levelSeen s id) ∧
  (∀ (s t : State) (c : ExceptionCause) (tval : Word), takeException s c tval = .next t → t.mil = s.mil)

/-- `mnxti` by CSRRSI and CSRRCI, and by the plain reads CSRRS and CSRRC with `rs1` = x0: the offered interrupt's
table entry or 0 in `rd`, the interrupt enable set or cleared, and the commit on a writing access (60 R475).  That
the winner and its level are those the interrupt logic sees, that 0 is read whatever `nlbits` and `mtvt` hold while
nothing is pending or offered, and that CSRRC with `rs1` = x0 is a plain read, are the model's choice
(notes/assumptions/8.md, 23.md). -/
def Obligations.MnxtiAccess : Prop :=
  ∀ (s : State) (rd : Reg) (uimm : BitVec 5), clicMode s = true →
    ((winner s = none ∨ ∃ w, winner s = some w ∧ nlbitsSeen s ≤ 2#4 ∧ hardwareVectored s w = false ∧
        levelSeen s w ≤ s.mcauseMpil) →
      (∃ t, exec (.csrrsi rd uimm 0x345#12) s = .next t ∧ SameMemory s t ∧
        WritesReg s t rd (fun v => v = 0#32) ∧
        t = { s with
          x := t.x, mstatusMie := (s.mstatusMie || uimm.getLsbD 3), pc := s.pc + 4#32,
          minstret := s.minstret + 1#64 }) ∧
      (∃ t, exec (.csrrci rd uimm 0x345#12) s = .next t ∧ SameMemory s t ∧
        WritesReg s t rd (fun v => v = 0#32) ∧
        t = { s with
          x := t.x, mstatusMie := (s.mstatusMie && !uimm.getLsbD 3), pc := s.pc + 4#32,
          minstret := s.minstret + 1#64 }) ∧
      (∃ t, exec (.csrrs rd 0#5 0x345#12) s = .next t ∧ Computed s t rd 4#32 fun v => v = 0#32) ∧
      (∃ t, exec (.csrrc rd 0#5 0x345#12) s = .next t ∧ Computed s t rd 4#32 fun v => v = 0#32)) ∧
    (∀ w, winner s = some w → nlbitsSeen s ≤ 2#4 → hardwareVectored s w = false →
        s.mcauseMpil < levelSeen s w → s.mtvt.toNat % 64 = 0 →
      (∃ t, exec (.csrrsi rd uimm 0x345#12) s = .next t ∧ SameMemory s t ∧
        WritesReg s t rd (fun v => v = s.mtvt + BitVec.ofNat 32 (4 * w)) ∧
        t = { s with
          x := t.x, mstatusMie := (s.mstatusMie || uimm.getLsbD 3), pc := s.pc + 4#32,
          minstret := s.minstret + 1#64,
          mil := (if uimm = 0#5 then s.mil else levelSeen s w),
          mcauseCode := (if uimm = 0#5 then s.mcauseCode else BitVec.ofNat 10 w),
          mcauseInterrupt := (if uimm = 0#5 then s.mcauseInterrupt else true) }) ∧
      (∃ t, exec (.csrrci rd uimm 0x345#12) s = .next t ∧ SameMemory s t ∧
        WritesReg s t rd (fun v => v = s.mtvt + BitVec.ofNat 32 (4 * w)) ∧
        t = { s with
          x := t.x, mstatusMie := (s.mstatusMie && !uimm.getLsbD 3), pc := s.pc + 4#32,
          minstret := s.minstret + 1#64,
          mil := (if uimm = 0#5 then s.mil else levelSeen s w),
          mcauseCode := (if uimm = 0#5 then s.mcauseCode else BitVec.ofNat 10 w),
          mcauseInterrupt := (if uimm = 0#5 then s.mcauseInterrupt else true) }) ∧
      (∃ t, exec (.csrrs rd 0#5 0x345#12) s = .next t ∧
        Computed s t rd 4#32 fun v => v = s.mtvt + BitVec.ofNat 32 (4 * w)) ∧
      (∃ t, exec (.csrrc rd 0#5 0x345#12) s = .next t ∧
        Computed s t rd 4#32 fun v => v = s.mtvt + BitVec.ofNat 32 (4 * w)))

/-- Where an access to `mnxti` has no meaning: the forms CSRRW, CSRRWI and writing CSRRS and CSRRC, any form
outside CLIC mode, and a winner that would be hardware-vectored (60 section 7).  That the winner and its vectoring
are those the interrupt logic sees, and that CSRRC with `rs1` = x0, which R476 does not name, is refused where the
plain read CSRRS with `rs1` = x0 is, are the model's choice (notes/assumptions/8.md, 23.md). -/
def Obligations.MnxtiRefused : Prop :=
  ∀ (s : State) (rd rs1 : Reg) (uimm : BitVec 5),
    exec (.csrrw rd rs1 0x345#12) s = .refused .mnxtiForm ∧
    exec (.csrrwi rd uimm 0x345#12) s = .refused .mnxtiForm ∧
    (rs1 ≠ 0#5 →
      exec (.csrrs rd rs1 0x345#12) s = .refused .mnxtiForm ∧
      exec (.csrrc rd rs1 0x345#12) s = .refused .mnxtiForm) ∧
    (clicMode s = false →
      exec (.csrrsi rd uimm 0x345#12) s = .refused .mnxtiNonClic ∧
      exec (.csrrci rd uimm 0x345#12) s = .refused .mnxtiNonClic ∧
      exec (.csrrs rd 0#5 0x345#12) s = .refused .mnxtiNonClic ∧
      exec (.csrrc rd 0#5 0x345#12) s = .refused .mnxtiNonClic) ∧
    (∀ w, clicMode s = true → winner s = some w → nlbitsSeen s ≤ 2#4 → hardwareVectored s w = true →
      exec (.csrrsi rd uimm 0x345#12) s = .refused .mnxtiVectored ∧
      exec (.csrrci rd uimm 0x345#12) s = .refused .mnxtiVectored ∧
      exec (.csrrs rd 0#5 0x345#12) s = .refused .mnxtiVectored ∧
      exec (.csrrc rd 0#5 0x345#12) s = .refused .mnxtiVectored)

/-! ## Interrupts -/

/-- The sources of the pending bits, once no store to the CLIC is still on its way; until then each register is
seen with its current or with an older value, `mtimecmp` whole (60 section 4; 61 sections 2 and 4; 20 section 5).
That each register may be seen at an age of its own, and that interrupt 48 and its input exist exactly where the
parameter says so, are the model's choice (notes/assumptions/8.md, 9.md). -/
def Obligations.PendingSources : Prop :=
  (∀ (s : State) (k : Nat), clicSeen s k = s.clic ∨ clicSeen s k ∈ s.clicOld) ∧
  (∀ s : State, ∃ c, (c = s.clic ∨ c ∈ s.clicOld) ∧
    (pendingSeen s 7 = true ↔ c.mtimecmp.toNat ≤ s.mtime.toNat)) ∧
  ∀ s : State, s.clicOld = [] →
    pendingSeen s 3 = s.clic.msip ∧
    (pendingSeen s 7 = true ↔ s.clic.mtimecmp.toNat ≤ s.mtime.toNat) ∧
    pendingSeen s 11 = s.meipWire ∧ pendingSeen s 12 = s.clic.csip ∧
    (∀ k < 32, pendingSeen s (16 + k) = s.lintWires.getLsbD k) ∧
    pendingSeen s 48 = (s.params.lint32 && s.lintWires.getLsbD 32) ∧
    (∀ id, implementedId s.params id = false → pendingSeen s id = false) ∧
    (∀ id, implementedId s.params id = true ↔
      id = 3 ∨ id = 7 ∨ id = 11 ∨ id = 12 ∨ (16 ≤ id ∧ id ≤ 47) ∨ (id = 48 ∧ s.params.lint32 = true)) ∧
    ∀ id, enabledSeen s id = s.clic.ie.getLsbD id

/-- Interrupts in the non-CLIC modes: taken at the boundary before an instruction if enabled by MIE and `mie`,
external before software before timer, to BASE or to BASE + 4 * id; else the instruction runs; with MIE = 0 it
runs always (60 R451, R453). -/
def Obligations.BasicInterrupts : Prop :=
  ∀ (s b : State), b = passBoundary s → s.debugMode = false → s.waiting = false → s.dcsrStep = false →
    s.pc.getLsbD 0 = false → HandlerAligned s →
    (s.mstatusMie = false → step s = fetchAndRun b) ∧
    (s.mstatusMie = true → clicMode s = false →
      ∃ target : Nat → Word,
        (∀ id, (target id).toNat =
          (s.mtvec.toNat / 64 * 64 + if s.mtvec.getLsbD 0 then 4 * id else 0) % 2 ^ 32) ∧
        (s.mieMeie = true ∧ pendingSeen b 11 = true →
          ∃ t, step s = .next t ∧ InterruptEntered b t 11 ∧ t.pc = target 11) ∧
        (¬ (s.mieMeie = true ∧ pendingSeen b 11 = true) → s.mieMsie = true ∧ pendingSeen b 3 = true →
          ∃ t, step s = .next t ∧ InterruptEntered b t 3 ∧ t.pc = target 3) ∧
        (¬ (s.mieMeie = true ∧ pendingSeen b 11 = true) → ¬ (s.mieMsie = true ∧ pendingSeen b 3 = true) →
          s.mieMtie = true ∧ pendingSeen b 7 = true →
          ∃ t, step s = .next t ∧ InterruptEntered b t 7 ∧ t.pc = target 7) ∧
        (¬ (s.mieMeie = true ∧ pendingSeen b 11 = true) → ¬ (s.mieMsie = true ∧ pendingSeen b 3 = true) →
          ¬ (s.mieMtie = true ∧ pendingSeen b 7 = true) → step s = fetchAndRun b))

/-- Interrupts in the CLIC modes: with MIE = 1 the winner is taken exactly if its level is above the current one;
else the instruction runs (60 R460; 20 R161).  That the level which the interrupt brings and its vectoring come from
the CLIC registers as the interrupt logic sees them, as the decision to take it does, is the model's choice
(notes/assumptions/8.md). -/
def Obligations.ClicInterrupts : Prop :=
  ∀ (s b : State), b = passBoundary s → s.debugMode = false → s.waiting = false → s.dcsrStep = false →
    s.pc.getLsbD 0 = false → HandlerAligned s →
    clicMode s = true → nlbitsSeen b ≤ 2#4 →
    (∀ w, winner b = some w → s.mstatusMie = true → s.mil < levelSeen b w → step s = takeInterrupt b w) ∧
    (∀ w, winner b = some w → s.mstatusMie = true → s.mil < levelSeen b w → hardwareVectored b w = false →
      ∃ t, step s = .next t ∧ InterruptEntered b t w ∧ t.pc.toNat = s.mtvec.toNat / 64 * 64 ∧ s.mil < t.mil) ∧
    (s.mstatusMie = false ∨ winner b = none ∨ (∃ w, winner b = some w ∧ levelSeen b w ≤ s.mil) →
      step s = fetchAndRun b)

/-- The winner among the pending and enabled interrupts has the greatest level, then the greatest priority, then
the greatest ID; there is none exactly if nothing is pending and enabled (60 section 5). -/
def Obligations.WinnerIsGreatest : Prop :=
  ∀ (s : State) (P : Nat → Prop) (prio : Nat → Nat),
    (∀ id, P id ↔ implementedId s.params id = true ∧ pendingSeen s id = true ∧ enabledSeen s id = true) →
    (∀ id, prio id = priorityOf (nvbitsSeen s) (nlbitsSeen s) (cfgSeen s id)) →
    (winner s = none ↔ ∀ id, ¬ P id) ∧
    ∀ w, winner s = some w ↔ P w ∧ ∀ id, P id →
      levelSeen s id < levelSeen s w ∨ (levelSeen s id = levelSeen s w ∧
        (prio id < prio w ∨ (prio id = prio w ∧ id ≤ w)))

/-- Levels and priorities for `nlbits` 0, 1 and 2, with and without the vectoring bit; above 2 an interrupt
decision has no meaning (61 R520, R521). -/
def Obligations.LevelTable : Prop :=
  (∀ (nv : Bool) (c : BitVec 2),
    (nv = true ∧ Config.shvBitInPriority = false →
      (levelOf nv 0#4 c).toNat = 255 ∧ priorityOf nv 0#4 c = c.toNat / 2 ∧
      (∀ n : BitVec 4, n = 1#4 ∨ n = 2#4 →
        (levelOf nv n c).toNat = c.toNat / 2 * 128 + 127 ∧ priorityOf nv n c = 0)) ∧
    (nv = false ∨ Config.shvBitInPriority = true →
      (levelOf nv 0#4 c).toNat = 255 ∧ priorityOf nv 0#4 c = c.toNat ∧
      (levelOf nv 1#4 c).toNat = c.toNat / 2 * 128 + 127 ∧ priorityOf nv 1#4 c = c.toNat % 2 ∧
      (levelOf nv 2#4 c).toNat = c.toNat * 64 + 63 ∧ priorityOf nv 2#4 c = 0)) ∧
  ∀ (s : State) (w : Nat), s.mstatusMie = true → clicMode s = true → winner s = some w → 2#4 < nlbitsSeen s →
    interruptDecision s = .refuse .nlbitsTooLarge

/-! ## Triggers -/

/-- A single armed trigger with an exact match stops a load, a store or a fetch before it has any effect: with
the breakpoint exception, or in debug mode if its action says so; while MIE = 0 the exception has no meaning
(62 section 1).  That the entry into debug mode is taken whatever MIE holds is the model's choice
(notes/assumptions/14.md). -/
def Obligations.TriggerBreakpoint : Prop :=
  ∀ (s : State) (j : Fin 4) (k : AccessKind) (a : Word), s.debugMode = false → HandlerAligned s →
    (s.triggers.get j).enabledFor k = true → (s.triggers.get j).matchType = 0#2 →
    (s.triggers.get j).tdata2 = a → (s.triggers.get j).chain = false →
    (∀ l, l ≠ j → (s.triggers.get l).enabledFor k = false) →
    (∀ l : Fin 4, l.val + 1 = j.val → (s.triggers.get l).chain = false) →
    ((s.triggers.get j).actionDebug = false → s.mstatusMie = true →
      (∀ i w, k = .load → LoadsFrom s i a w → TakesException i s 3#10 a) ∧
      (∀ i w, k = .store → StoresTo s i a w → TakesException i s 3#10 a) ∧
      (k = .fetch → a = s.pc → ∃ t, fetchAndRun s = .next t ∧ ExceptionEntered s t 3#10 s.pc)) ∧
    ((s.triggers.get j).actionDebug = false → s.mstatusMie = false →
      (∀ i w, k = .load → LoadsFrom s i a w → exec i s = .refused .triggerInHandler) ∧
      (∀ i w, k = .store → StoresTo s i a w → exec i s = .refused .triggerInHandler) ∧
      (k = .fetch → a = s.pc → fetchAndRun s = .refused .triggerInHandler)) ∧
    ((s.triggers.get j).actionDebug = true →
      (∀ i w, k = .load → LoadsFrom s i a w → ∃ t, exec i s = .next t ∧ DebugEntered s t) ∧
      (∀ i w, k = .store → StoresTo s i a w → ∃ t, exec i s = .next t ∧ DebugEntered s t) ∧
      (k = .fetch → a = s.pc → ∃ t, fetchAndRun s = .next t ∧ DebugEntered s t))

/-- Two neighbouring triggers chained as a range fire inside it and not outside it (62 section 1). -/
def Obligations.TriggerChainRange : Prop :=
  ∀ (s : State) (j : Nat) (hj : j + 1 < 4) (k : AccessKind) (a : Word) (n : Nat) (lo hi : Trigger),
    lo = s.triggers[j] → hi = s.triggers[j + 1] → s.debugMode = false → s.mstatusMie = true →
    lo.enabledFor k = true → hi.enabledFor k = true → lo.matchType = 2#2 → hi.matchType = 3#2 →
    lo.chain = true → hi.chain = false → hi.actionDebug = false → 0 < n → a.toNat + n ≤ 2 ^ 32 →
    (∀ l : Fin 4, l.val ≠ j → l.val ≠ j + 1 → (s.triggers.get l).enabledFor k = false) →
    (∀ l : Fin 4, l.val + 1 = j → (s.triggers.get l).chain = false) →
    (lo.tdata2.toNat ≤ a.toNat ∧ a.toNat < hi.tdata2.toNat → triggerCheck s k a n = .raise .breakpoint a) ∧
    (a.toNat + n ≤ lo.tdata2.toNat ∨ hi.tdata2.toNat ≤ a.toNat → triggerCheck s k a n = .ok ())

/-- NAPOT ranges of 2 to 16 bytes match the aligned block that holds the address; larger ones have no meaning
(62 R554).  That every access of the kind is refused while such a trigger is enabled, whatever its address, is the
model's choice (notes/assumptions/14.md). -/
def Obligations.NapotRanges : Prop :=
  (∀ (t : Trigger) (a : Word) (k : Nat), t.matchType = 1#2 → k < 4 →
    t.tdata2.toNat % 2 ^ (k + 1) = 2 ^ k - 1 →
    t.unsupportedRange = false ∧ (t.hits a = true ↔ a.toNat / 2 ^ (k + 1) = t.tdata2.toNat / 2 ^ (k + 1))) ∧
  (∀ (s : State) (j : Fin 4) (kind : AccessKind) (a : Word) (n : Nat), s.debugMode = false →
    (s.triggers.get j).enabledFor kind = true → (s.triggers.get j).matchType = 1#2 →
    (s.triggers.get j).tdata2.toNat % 16 = 15 → triggerCheck s kind a n = .refuse .napotRange)

/-- What a program may write to a trigger: `tselect`, of which 0 to 3 read back and any other value leaves some
legal index; any `tdata2`; and in `tdata1` the fields R, W, X, M, match and chain with `action` and `dmode` 0, all
read back beside the constant fields, but that a `match` above 3 leaves some match type from 0 to 3.  An `action`
other than 0, `dmode` = 1 and, for trigger 3, `chain` = 1 have no meaning (62 section 1; 10 section 5.8).  That U
and S each hold what is written, always or never, is the model's choice (notes/assumptions/12.md). -/
def Obligations.TriggerCsrs : Prop :=
  ∀ (s : State) (rd rs1 : Reg) (v : Word), v = readReg s rs1 → s.debugMode = false →
    (∃ t, exec (.csrrw rd rs1 0x7A0#12) s = .next t ∧ WritesReg s t rd (fun u => u.toNat = s.tselect.toNat) ∧
      (v.toNat < 4 → t.tselect.toNat = v.toNat) ∧ (csrRead t .tselect).toNat < 4 ∧ SameMemory s t ∧
      t = { s with x := t.x, tselect := t.tselect, pc := s.pc + 4#32, minstret := s.minstret + 1#64 }) ∧
    ((s.triggers.get s.tselect.toFin).dmode = false →
      (∃ t, exec (.csrrw rd rs1 0x7A2#12) s = .next t ∧ SameMemory s t ∧
        WritesReg s t rd (fun u => u = (s.triggers.get s.tselect.toFin).tdata2) ∧
        (∀ j : Fin 4, t.triggers.get j =
          if j = s.tselect.toFin then { s.triggers.get j with tdata2 := v } else s.triggers.get j) ∧
        t = { s with x := t.x, triggers := t.triggers, pc := s.pc + 4#32, minstret := s.minstret + 1#64 }) ∧
      (v.extractLsb' 12 4 = 0#4 → v.getLsbD 27 = false → ¬ (s.tselect = 3#2 ∧ v.getLsbD 11 = true) →
        ∃ t, exec (.csrrw rd rs1 0x7A1#12) s = .next t ∧ SameMemory s t ∧
          WritesReg s t rd (fun u => u = csrRead s .tdata1) ∧
          (∀ j : Fin 4, j ≠ s.tselect.toFin → t.triggers.get j = s.triggers.get j) ∧
          (∀ k < 32, ¬ ((k = 7 ∨ k = 8) ∧ v.extractLsb' 9 2 ≠ 0#2) → (csrRead t .tdata1).getLsbD k =
            if k = 0 ∨ k = 1 ∨ k = 2 ∨ k = 6 ∨ k = 7 ∨ k = 8 ∨ k = 11 then v.getLsbD k
            else if k = 3 then v.getLsbD 3 && Config.mcontrolKeepsU
            else if k = 4 then v.getLsbD 4 && Config.mcontrolKeepsS
            else decide (k = 23 ∨ k = 29)) ∧
          t = { s with x := t.x, triggers := t.triggers, pc := s.pc + 4#32, minstret := s.minstret + 1#64 }) ∧
      (v.extractLsb' 12 4 ≠ 0#4 ∨ v.getLsbD 27 = true →
        exec (.csrrw rd rs1 0x7A1#12) s = .refused .triggerActionOrDmodeWrite) ∧
      (v.extractLsb' 12 4 = 0#4 → v.getLsbD 27 = false → s.tselect = 3#2 → v.getLsbD 11 = true →
        exec (.csrrw rd rs1 0x7A1#12) s = .refused .triggerChainLast))

/-! ## Compressed instructions -/

/-- C.ADDI4SPN, C.ADDI, C.LI, C.ADDI16SP, C.LUI, C.SUB, C.MV, C.ADD: encodings and results (45 R362, R366, R368 to
R370, R374, R384, R387). -/
def Obligations.CompressedArithmetic : Prop :=
  ∀ (s : State) (rd rs2 : Reg) (rd' rs2' : CReg) (i5 : BitVec 1) (i4 : BitVec 5) (imm : BitVec 6)
    (u : BitVec 10) (v18 : BitVec 18) (u54 : BitVec 2) (u96 : BitVec 4) (u2 u3 n9 n4 n6 n5 : BitVec 1)
    (n87 : BitVec 2),
    ((u54 ++ u96 ++ u2 ++ u3 ≠ 0#8 →
        decode (.half (0b000#3 ++ u54 ++ u96 ++ u2 ++ u3 ++ rd' ++ 0b00#2)) =
          .ok (.cAddi4spn rd' (u96 ++ u54 ++ u3 ++ u2 ++ 0#2))) ∧
      runEncoded s (.half (0b000#3 ++ 0#8 ++ rd' ++ 0b00#2)) =
        takeIllegal s ((0b000#3 ++ 0#8 ++ rd' ++ 0b00#2).setWidth 32) ∧
      (cReg rd').toNat = 8 + rd'.toNat ∧
      ∃ t, exec (.cAddi4spn rd' u) s = .next t ∧
        Computed s t (cReg rd') 2#32 fun v => v.toNat = ((readReg s 2#5).toNat + u.toNat) % 2 ^ 32) ∧
    ((rd ≠ 0#5 → decode (.half (0b000#3 ++ i5 ++ rd ++ i4 ++ 0b01#2)) = .ok (.cAddi rd (i5 ++ i4))) ∧
      ∃ t, exec (.cAddi rd imm) s = .next t ∧
        Computed s t rd 2#32 fun v => v = BitVec.ofInt 32 ((readReg s rd).toInt + imm.toInt)) ∧
    (decode (.half (0b010#3 ++ i5 ++ rd ++ i4 ++ 0b01#2)) = .ok (.cLi rd (i5 ++ i4)) ∧
      ∃ t, exec (.cLi rd imm) s = .next t ∧ Computed s t rd 2#32 fun v => v.toInt = imm.toInt) ∧
    ((n9 ++ n4 ++ n6 ++ n87 ++ n5 ≠ 0#6 →
        decode (.half (0b011#3 ++ n9 ++ 0b00010#5 ++ n4 ++ n6 ++ n87 ++ n5 ++ 0b01#2)) =
          .ok (.cAddi16sp (n9 ++ n87 ++ n6 ++ n5 ++ n4 ++ 0#4))) ∧
      ∃ t, exec (.cAddi16sp u) s = .next t ∧
        Computed s t 2#5 2#32 fun v => v = BitVec.ofInt 32 ((readReg s 2#5).toInt + u.toInt)) ∧
    ((i5 ++ i4 ≠ 0#6 → rd ≠ 2#5 →
        decode (.half (0b011#3 ++ i5 ++ rd ++ i4 ++ 0b01#2)) = .ok (.cLui rd (i5 ++ i4 ++ 0#12))) ∧
      runEncoded s (.half (0b011#3 ++ 0#1 ++ rd ++ 0#5 ++ 0b01#2)) =
        takeIllegal s ((0b011#3 ++ 0#1 ++ rd ++ 0#5 ++ 0b01#2).setWidth 32) ∧
      ∃ t, exec (.cLui rd v18) s = .next t ∧ Computed s t rd 2#32 fun v => v.toInt = v18.toInt) ∧
    (decode (.half (0b100#3 ++ 0#1 ++ 0b11#2 ++ rd' ++ 0b00#2 ++ rs2' ++ 0b01#2)) = .ok (.cSub rd' rs2') ∧
      ∃ t, exec (.cSub rd' rs2') s = .next t ∧
        Computed s t (cReg rd') 2#32 fun v =>
          (v.toNat : Int) = ((readReg s (cReg rd')).toNat - (readReg s (cReg rs2')).toNat : Int) % 2 ^ 32) ∧
    ((rs2 ≠ 0#5 → decode (.half (0b1000#4 ++ rd ++ rs2 ++ 0b10#2)) = .ok (.cMv rd rs2)) ∧
      ∃ t, exec (.cMv rd rs2) s = .next t ∧ Computed s t rd 2#32 fun v => v = readReg s rs2) ∧
    ((rs2 ≠ 0#5 → decode (.half (0b1001#4 ++ rd ++ rs2 ++ 0b10#2)) = .ok (.cAdd rd rs2)) ∧
      ∃ t, exec (.cAdd rd rs2) s = .next t ∧
        Computed s t rd 2#32 fun v => v.toNat = ((readReg s rd).toNat + (readReg s rs2).toNat) % 2 ^ 32)

/-- C.SRLI, C.SRAI, C.ANDI, C.XOR, C.OR, C.AND, C.SLLI: encodings and results (45 R371 to R373, R375 to R377,
R381). -/
def Obligations.CompressedLogicShift : Prop :=
  ∀ (s : State) (rd : Reg) (rd' rs2' : CReg) (shamt : BitVec 5) (i5 : BitVec 1) (i4 : BitVec 5) (imm : BitVec 6),
    (cReg rd').toNat = 8 + rd'.toNat ∧
    (decode (.half (0b100#3 ++ 0#1 ++ 0b00#2 ++ rd' ++ shamt ++ 0b01#2)) = .ok (.cSrli rd' shamt) ∧
      runEncoded s (.half (0b100#3 ++ 1#1 ++ 0b00#2 ++ rd' ++ shamt ++ 0b01#2)) =
        takeIllegal s ((0b100#3 ++ 1#1 ++ 0b00#2 ++ rd' ++ shamt ++ 0b01#2).setWidth 32) ∧
      ∃ t, exec (.cSrli rd' shamt) s = .next t ∧
        Computed s t (cReg rd') 2#32 fun v => v.toNat = (readReg s (cReg rd')).toNat / 2 ^ shamt.toNat) ∧
    (decode (.half (0b100#3 ++ 0#1 ++ 0b01#2 ++ rd' ++ shamt ++ 0b01#2)) = .ok (.cSrai rd' shamt) ∧
      runEncoded s (.half (0b100#3 ++ 1#1 ++ 0b01#2 ++ rd' ++ shamt ++ 0b01#2)) =
        takeIllegal s ((0b100#3 ++ 1#1 ++ 0b01#2 ++ rd' ++ shamt ++ 0b01#2).setWidth 32) ∧
      ∃ t, exec (.cSrai rd' shamt) s = .next t ∧
        Computed s t (cReg rd') 2#32 fun v => v.toInt = (readReg s (cReg rd')).toInt / 2 ^ shamt.toNat) ∧
    (decode (.half (0b100#3 ++ i5 ++ 0b10#2 ++ rd' ++ i4 ++ 0b01#2)) = .ok (.cAndi rd' (i5 ++ i4)) ∧
      ∃ t, exec (.cAndi rd' imm) s = .next t ∧
        Computed s t (cReg rd') 2#32 fun v => ∀ k < 32,
          v.getLsbD k = ((readReg s (cReg rd')).getLsbD k && imm.getLsbD (min k 5))) ∧
    (decode (.half (0b100#3 ++ 0#1 ++ 0b11#2 ++ rd' ++ 0b01#2 ++ rs2' ++ 0b01#2)) = .ok (.cXor rd' rs2') ∧
      ∃ t, exec (.cXor rd' rs2') s = .next t ∧
        Computed s t (cReg rd') 2#32 fun v => ∀ k < 32,
          v.getLsbD k = ((readReg s (cReg rd')).getLsbD k ^^ (readReg s (cReg rs2')).getLsbD k)) ∧
    (decode (.half (0b100#3 ++ 0#1 ++ 0b11#2 ++ rd' ++ 0b10#2 ++ rs2' ++ 0b01#2)) = .ok (.cOr rd' rs2') ∧
      ∃ t, exec (.cOr rd' rs2') s = .next t ∧
        Computed s t (cReg rd') 2#32 fun v => ∀ k < 32,
          v.getLsbD k = ((readReg s (cReg rd')).getLsbD k || (readReg s (cReg rs2')).getLsbD k)) ∧
    (decode (.half (0b100#3 ++ 0#1 ++ 0b11#2 ++ rd' ++ 0b11#2 ++ rs2' ++ 0b01#2)) = .ok (.cAnd rd' rs2') ∧
      ∃ t, exec (.cAnd rd' rs2') s = .next t ∧
        Computed s t (cReg rd') 2#32 fun v => ∀ k < 32,
          v.getLsbD k = ((readReg s (cReg rd')).getLsbD k && (readReg s (cReg rs2')).getLsbD k)) ∧
    (decode (.half (0b000#3 ++ 0#1 ++ rd ++ shamt ++ 0b10#2)) = .ok (.cSlli rd shamt) ∧
      runEncoded s (.half (0b000#3 ++ 1#1 ++ rd ++ shamt ++ 0b10#2)) =
        takeIllegal s ((0b000#3 ++ 1#1 ++ rd ++ shamt ++ 0b10#2).setWidth 32) ∧
      ∃ t, exec (.cSlli rd shamt) s = .next t ∧
        Computed s t rd 2#32 fun v => v.toNat = (readReg s rd).toNat * 2 ^ shamt.toNat % 2 ^ 32)

/-- C.JAL, C.J, C.JR, C.JALR, C.BEQZ, C.BNEZ: encodings, links of pc + 2, targets (45 R367, R378 to R380, R383,
R386). -/
def Obligations.CompressedJumps : Prop :=
  ∀ (s : State) (rs1 : Reg) (rs1' : CReg) (offset : BitVec 12) (offset9 : BitVec 9)
    (o11 o4 o10 o6 o7 o5 p8 p5 : BitVec 1) (o98 p43 p76 p21 : BitVec 2) (o31 : BitVec 3),
    (decode (.half (0b001#3 ++ o11 ++ o4 ++ o98 ++ o10 ++ o6 ++ o7 ++ o31 ++ o5 ++ 0b01#2)) =
        .ok (.cJal (o11 ++ o10 ++ o98 ++ o7 ++ o6 ++ o5 ++ o4 ++ o31 ++ 0#1)) ∧
      ∃ t, exec (.cJal offset) s = .next t ∧
        Jumped s t 1#5 2#32 (BitVec.ofInt 32 (s.pc.toInt + offset.toInt))) ∧
    (decode (.half (0b101#3 ++ o11 ++ o4 ++ o98 ++ o10 ++ o6 ++ o7 ++ o31 ++ o5 ++ 0b01#2)) =
        .ok (.cJ (o11 ++ o10 ++ o98 ++ o7 ++ o6 ++ o5 ++ o4 ++ o31 ++ 0#1)) ∧
      ∃ t, exec (.cJ offset) s = .next t ∧ WentTo s t (BitVec.ofInt 32 (s.pc.toInt + offset.toInt))) ∧
    ((rs1 ≠ 0#5 → decode (.half (0b1000#4 ++ rs1 ++ 0#5 ++ 0b10#2)) = .ok (.cJr rs1)) ∧
      runEncoded s (.half 0x8002#16) = takeIllegal s 0x8002#32 ∧
      ∃ t, exec (.cJr rs1) s = .next t ∧
        WentTo s t (BitVec.ofNat 32 ((readReg s rs1).toNat / 2 * 2))) ∧
    ((rs1 ≠ 0#5 → decode (.half (0b1001#4 ++ rs1 ++ 0#5 ++ 0b10#2)) = .ok (.cJalr rs1)) ∧
      ∃ t, exec (.cJalr rs1) s = .next t ∧
        Jumped s t 1#5 2#32 (BitVec.ofNat 32 ((readReg s rs1).toNat / 2 * 2))) ∧
    (decode (.half (0b110#3 ++ p8 ++ p43 ++ rs1' ++ p76 ++ p21 ++ p5 ++ 0b01#2)) =
        .ok (.cBeqz rs1' (p8 ++ p76 ++ p5 ++ p43 ++ p21 ++ 0#1)) ∧
      ∃ t, exec (.cBeqz rs1' offset9) s = .next t ∧
        WentTo s t (if readReg s (cReg rs1') = 0#32 then BitVec.ofInt 32 (s.pc.toInt + offset9.toInt)
          else s.pc + 2#32)) ∧
    (decode (.half (0b111#3 ++ p8 ++ p43 ++ rs1' ++ p76 ++ p21 ++ p5 ++ 0b01#2)) =
        .ok (.cBnez rs1' (p8 ++ p76 ++ p5 ++ p43 ++ p21 ++ 0#1)) ∧
      ∃ t, exec (.cBnez rs1' offset9) s = .next t ∧
        WentTo s t (if readReg s (cReg rs1') = 0#32 then s.pc + 2#32
          else BitVec.ofInt 32 (s.pc.toInt + offset9.toInt)))

/-- The hint encodings, and the computational instructions with destination x0, retire, move to the next
instruction and change nothing else, registers included (30 R214). -/
def Obligations.HintsChangeNothing : Prop :=
  ∀ (s : State) (i : Instr) (rd rs1 rs2 : Reg) (rd' : CReg) (imm : BitVec 6) (imm12 : BitVec 12)
    (imm20 : BitVec 20) (v18 : BitVec 18) (shamt : BitVec 5),
    (i = .cNop imm ∨ i = .cAddi rd 0#6 ∨ i = .cLi 0#5 imm ∨ i = .cLui 0#5 v18 ∨ i = .cMv 0#5 rs2 ∨
        i = .cAdd 0#5 rs2 ∨ i = .cSlli 0#5 shamt ∨ i = .cSlli rd 0#5 ∨ i = .cSrli rd' 0#5 ∨ i = .cSrai rd' 0#5 →
      ∃ t, exec i s = .next t ∧ WentTo s t (s.pc + 2#32)) ∧
    (i = .lui 0#5 imm20 ∨ i = .auipc 0#5 imm20 ∨ i = .addi 0#5 rs1 imm12 ∨ i = .slti 0#5 rs1 imm12 ∨
        i = .sltiu 0#5 rs1 imm12 ∨ i = .xori 0#5 rs1 imm12 ∨ i = .ori 0#5 rs1 imm12 ∨ i = .andi 0#5 rs1 imm12 ∨
        i = .slli 0#5 rs1 shamt ∨ i = .srli 0#5 rs1 shamt ∨ i = .srai 0#5 rs1 shamt ∨ i = .add 0#5 rs1 rs2 ∨
        i = .sub 0#5 rs1 rs2 ∨ i = .sll 0#5 rs1 rs2 ∨ i = .slt 0#5 rs1 rs2 ∨ i = .sltu 0#5 rs1 rs2 ∨
        i = .xor 0#5 rs1 rs2 ∨ i = .srl 0#5 rs1 rs2 ∨ i = .sra 0#5 rs1 rs2 ∨ i = .or 0#5 rs1 rs2 ∨
        i = .and 0#5 rs1 rs2 ∨ i = .mul 0#5 rs1 rs2 ∨ i = .mulh 0#5 rs1 rs2 ∨ i = .mulhsu 0#5 rs1 rs2 ∨
        i = .mulhu 0#5 rs1 rs2 ∨ i = .div 0#5 rs1 rs2 ∨ i = .divu 0#5 rs1 rs2 ∨ i = .rem 0#5 rs1 rs2 ∨
        i = .remu 0#5 rs1 rs2 →
      ∃ t, exec i s = .next t ∧ WentTo s t (s.pc + 4#32))

/-! ## Encoding -/

/-- Decoding the encoding of a well-formed instruction gives it back, from the words and from the bytes in
memory. -/
def Obligations.DecodeEncode : Prop :=
  ∀ i : Instr, i.wf = true →
    decode (encode i) = .ok i ∧ ∀ rest : List Byte, decodeBytes ((encode i).bytes ++ rest) = .ok (i, rest)

/-- Whatever decodes is well formed and encodes to the bits it was decoded from, so that no two words of one
length stand for one instruction and no bit is dropped. -/
def Obligations.EncodeDecode : Prop :=
  ∀ (e : Encoded) (i : Instr), decode e = .ok i → i.wf = true ∧ encode i = e

/-- Words written out from the rules' own examples decode to the instructions they stand for. -/
def Obligations.DecodedExamples : Prop :=
  decode (.full 0x12345537#32) = .ok (.lui 10#5 0x12345#20) ∧
  decode (.full 0xFFF58513#32) = .ok (.addi 10#5 11#5 0xFFF#12) ∧
  decode (.full 0x4045D513#32) = .ok (.srai 10#5 11#5 4#5) ∧
  decode (.full 0x40C58533#32) = .ok (.sub 10#5 11#5 12#5) ∧
  decode (.full 0xFFDFF06F#32) = .ok (.jal 0#5 (-4#21)) ∧
  decode (.full 0xFEB51CE3#32) = .ok (.bne 10#5 11#5 (-8#13)) ∧
  decode (.full 0x00812503#32) = .ok (.lw 10#5 2#5 8#12) ∧
  decode (.full 0xFEA58FA3#32) = .ok (.sb 10#5 11#5 0xFFF#12) ∧
  decode (.full 0x34059573#32) = .ok (.csrrw 10#5 11#5 0x340#12) ∧
  decode (.full 0x02C5C533#32) = .ok (.div 10#5 11#5 12#5) ∧
  decode (.half 0x1FE0#16) = .ok (.cAddi4spn 0#3 1020#10) ∧
  decode (.half 0x3001#16) = .ok (.cJal (-2048#12)) ∧
  decode (.half 0xED7D#16) = .ok (.cBnez 2#3 254#9) ∧
  decode (.half 0xC422#16) = .ok (.cSwsp 8#5 8#8)

/-! ## The machine -/

/-- The state after reset, as far as the spec gives it, for every choice of the parameters and of what the
environment supplies (70 R591; 00 R10). -/
def Obligations.ResetState : Prop :=
  ∀ (p : Params) (platform : List PortRegion) (mem : List Host.Cell) (inputs : List BoundaryInput) (s : State),
    s = State.resetWith p platform mem inputs →
    s.pc = p.resetVector ∧ s.debugMode = false ∧ s.mstatusMie = false ∧ s.mtvec = 0#32 ∧
    s.clic.ie = 0#49 ∧ (∀ id, s.clic.cfgOf id = 0#2) ∧ s.clic.nvbits = false ∧ s.clic.nlbits = 0#4 ∧
    s.clic.cliccfg7 = false ∧ s.clic.msip = false ∧ s.clic.csip = false ∧ s.mil = 0#8 ∧ s.mcauseMinhv = false ∧
    (∀ a, Memory.read s.mem a = Memory.read mem a) ∧ s.platform = platform

/-- A step passes an instruction boundary, at which the environment may move its wires and `mtime` and nothing
else changes, and then, if no interrupt is taken and the hart does not wait in WFI, runs the instruction whose bytes
stand at the pc (20 R152; 30 R210; 60 R463), after which a hart under single step enters debug mode (62 R570).
That an empty input list leaves the wires and `mtime` as they were, and when single step enters debug mode, are the
model's choice (notes/assumptions/4.md, 6.md). -/
def Obligations.StepRunsDecoded : Prop :=
  (∀ s : State,
    passBoundary s = { s with
      boundary := s.boundary + 1, inputs := s.inputs.tail, meipWire := (passBoundary s).meipWire,
      lintWires := (passBoundary s).lintWires, mtime := (passBoundary s).mtime } ∧
    (s.inputs = [] → passBoundary s = { s with boundary := s.boundary + 1 })) ∧
  ∀ (s : State) (i : Instr) (rest : List Byte), s.debugMode = false → s.waiting = false →
    s.pc.getLsbD 0 = false → interruptDecision (passBoundary s) = .noInterrupt → NoTrigger s .fetch →
    s.unfenced = [] → ReadablePort s s.pc → ((encode i).length = 4 → ReadablePort s (s.pc + 2#32)) →
    decodeBytes (Memory.readBytes s.mem s.pc.toNat 4) = .ok (i, rest) → i.wf = true →
    (s.dcsrStep = false → step s = exec i (passBoundary s)) ∧
    (s.dcsrStep = true → ∀ t, exec i (passBoundary s) = .next t → t.debugMode = false →
      ∃ u, step s = .next u ∧ DebugEntered t u)

/-- The invariant holds after reset, for every reset vector and memory in the System Port. -/
def Obligations.ResetInv : Prop :=
  Inv State.reset ∧
  ∀ (p : Params) (platform : List PortRegion) (mem : List Host.Cell) (inputs : List BoundaryInput),
    p.resetVector.getLsbD 0 = false → Memory.wf mem → (∀ c ∈ mem, 0x20000000 ≤ c.1 ∧ c.1 < 0x40000000) →
    Inv (State.resetWith p platform mem inputs)

/-- Every step keeps the invariant: the memory's canonical form and its range, x0, the even pc and `mepc`, the
levels the E20 can produce, the zero bits of the CLIC's reserved interrupts, `minhv`, the last trigger. -/
def Obligations.StepKeepsInv : Prop := ∀ s t : State, Inv s → step s = .next t → Inv t

/-- A program cannot enter debug mode or arm a trigger for it by itself. -/
def Obligations.StepKeepsNoDebugger : Prop := ∀ s t : State, NoDebugger s → step s = .next t → NoDebugger t
end

