-- ==== Sys2Proof/Laws/State.lean ====
section
/-! SUPPORT. One lemma for each field of each named update of the state, so that no proof unfolds one. -/

namespace Sys2Proof.Machine

/-! ## Retiring (10 R36, R91) -/

@[simp] theorem retire_x (s : State) (next : Word) : (retire s next).x = s.x := rfl
@[simp] theorem retire_pc (s : State) (next : Word) : (retire s next).pc = next := rfl
@[simp] theorem retire_debugMode (s : State) (next : Word) : (retire s next).debugMode = s.debugMode := rfl
@[simp] theorem retire_waiting (s : State) (next : Word) : (retire s next).waiting = s.waiting := rfl
@[simp] theorem retire_mstatusMie (s : State) (next : Word) : (retire s next).mstatusMie = s.mstatusMie := rfl
@[simp] theorem retire_mstatusMpie (s : State) (next : Word) : (retire s next).mstatusMpie = s.mstatusMpie := rfl
@[simp] theorem retire_mieMsie (s : State) (next : Word) : (retire s next).mieMsie = s.mieMsie := rfl
@[simp] theorem retire_mieMtie (s : State) (next : Word) : (retire s next).mieMtie = s.mieMtie := rfl
@[simp] theorem retire_mieMeie (s : State) (next : Word) : (retire s next).mieMeie = s.mieMeie := rfl
@[simp] theorem retire_mtvec (s : State) (next : Word) : (retire s next).mtvec = s.mtvec := rfl
@[simp] theorem retire_mtvt (s : State) (next : Word) : (retire s next).mtvt = s.mtvt := rfl
@[simp] theorem retire_mscratch (s : State) (next : Word) : (retire s next).mscratch = s.mscratch := rfl
@[simp] theorem retire_mepc (s : State) (next : Word) : (retire s next).mepc = s.mepc := rfl
@[simp] theorem retire_mcauseInterrupt (s : State) (next : Word) : (retire s next).mcauseInterrupt = s.mcauseInterrupt := rfl
@[simp] theorem retire_mcauseCode (s : State) (next : Word) : (retire s next).mcauseCode = s.mcauseCode := rfl
@[simp] theorem retire_mcauseMpil (s : State) (next : Word) : (retire s next).mcauseMpil = s.mcauseMpil := rfl
@[simp] theorem retire_mpilSeen (s : State) (next : Word) : (retire s next).mpilSeen = s.mpilSeen := rfl
@[simp] theorem retire_mcauseMinhv (s : State) (next : Word) : (retire s next).mcauseMinhv = s.mcauseMinhv := rfl
@[simp] theorem retire_mtval (s : State) (next : Word) : (retire s next).mtval = s.mtval := rfl
@[simp] theorem retire_mil (s : State) (next : Word) : (retire s next).mil = s.mil := rfl
@[simp] theorem retire_mcycleBase (s : State) (next : Word) : (retire s next).mcycleBase = s.mcycleBase := rfl
@[simp] theorem retire_minstret (s : State) (next : Word) : (retire s next).minstret = (s.minstret + 1#64) := rfl
@[simp] theorem retire_tselect (s : State) (next : Word) : (retire s next).tselect = s.tselect := rfl
@[simp] theorem retire_triggers (s : State) (next : Word) : (retire s next).triggers = s.triggers := rfl
@[simp] theorem retire_dcsrEbreakm (s : State) (next : Word) : (retire s next).dcsrEbreakm = s.dcsrEbreakm := rfl
@[simp] theorem retire_dcsrStep (s : State) (next : Word) : (retire s next).dcsrStep = s.dcsrStep := rfl
@[simp] theorem retire_dpc (s : State) (next : Word) : (retire s next).dpc = s.dpc := rfl
@[simp] theorem retire_dscratch (s : State) (next : Word) : (retire s next).dscratch = s.dscratch := rfl
@[simp] theorem retire_clic (s : State) (next : Word) : (retire s next).clic = s.clic := rfl
@[simp] theorem retire_clicOld (s : State) (next : Word) : (retire s next).clicOld = s.clicOld := rfl
@[simp] theorem retire_mtime (s : State) (next : Word) : (retire s next).mtime = s.mtime := rfl
@[simp] theorem retire_meipWire (s : State) (next : Word) : (retire s next).meipWire = s.meipWire := rfl
@[simp] theorem retire_lintWires (s : State) (next : Word) : (retire s next).lintWires = s.lintWires := rfl
@[simp] theorem retire_inputs (s : State) (next : Word) : (retire s next).inputs = s.inputs := rfl
@[simp] theorem retire_mem (s : State) (next : Word) : (retire s next).mem = s.mem := rfl
@[simp] theorem retire_unfenced (s : State) (next : Word) : (retire s next).unfenced = s.unfenced := rfl
@[simp] theorem retire_platform (s : State) (next : Word) : (retire s next).platform = s.platform := rfl
@[simp] theorem retire_params (s : State) (next : Word) : (retire s next).params = s.params := rfl
@[simp] theorem retire_boundary (s : State) (next : Word) : (retire s next).boundary = s.boundary := rfl

/-! ## Writing a register (10 R31, R33) -/

@[simp] theorem writeReg_pc (s : State) (r : Reg) (v : Word) : (writeReg s r v).pc = s.pc := by unfold writeReg; split <;> rfl
@[simp] theorem writeReg_debugMode (s : State) (r : Reg) (v : Word) : (writeReg s r v).debugMode = s.debugMode := by unfold writeReg; split <;> rfl
@[simp] theorem writeReg_waiting (s : State) (r : Reg) (v : Word) : (writeReg s r v).waiting = s.waiting := by unfold writeReg; split <;> rfl
@[simp] theorem writeReg_mstatusMie (s : State) (r : Reg) (v : Word) : (writeReg s r v).mstatusMie = s.mstatusMie := by unfold writeReg; split <;> rfl
@[simp] theorem writeReg_mstatusMpie (s : State) (r : Reg) (v : Word) : (writeReg s r v).mstatusMpie = s.mstatusMpie := by unfold writeReg; split <;> rfl
@[simp] theorem writeReg_mieMsie (s : State) (r : Reg) (v : Word) : (writeReg s r v).mieMsie = s.mieMsie := by unfold writeReg; split <;> rfl
@[simp] theorem writeReg_mieMtie (s : State) (r : Reg) (v : Word) : (writeReg s r v).mieMtie = s.mieMtie := by unfold writeReg; split <;> rfl
@[simp] theorem writeReg_mieMeie (s : State) (r : Reg) (v : Word) : (writeReg s r v).mieMeie = s.mieMeie := by unfold writeReg; split <;> rfl
@[simp] theorem writeReg_mtvec (s : State) (r : Reg) (v : Word) : (writeReg s r v).mtvec = s.mtvec := by unfold writeReg; split <;> rfl
@[simp] theorem writeReg_mtvt (s : State) (r : Reg) (v : Word) : (writeReg s r v).mtvt = s.mtvt := by unfold writeReg; split <;> rfl
@[simp] theorem writeReg_mscratch (s : State) (r : Reg) (v : Word) : (writeReg s r v).mscratch = s.mscratch := by unfold writeReg; split <;> rfl
@[simp] theorem writeReg_mepc (s : State) (r : Reg) (v : Word) : (writeReg s r v).mepc = s.mepc := by unfold writeReg; split <;> rfl
@[simp] theorem writeReg_mcauseInterrupt (s : State) (r : Reg) (v : Word) : (writeReg s r v).mcauseInterrupt = s.mcauseInterrupt := by unfold writeReg; split <;> rfl
@[simp] theorem writeReg_mcauseCode (s : State) (r : Reg) (v : Word) : (writeReg s r v).mcauseCode = s.mcauseCode := by unfold writeReg; split <;> rfl
@[simp] theorem writeReg_mcauseMpil (s : State) (r : Reg) (v : Word) : (writeReg s r v).mcauseMpil = s.mcauseMpil := by unfold writeReg; split <;> rfl
@[simp] theorem writeReg_mpilSeen (s : State) (r : Reg) (v : Word) : (writeReg s r v).mpilSeen = s.mpilSeen := by unfold writeReg; split <;> rfl
@[simp] theorem writeReg_mcauseMinhv (s : State) (r : Reg) (v : Word) : (writeReg s r v).mcauseMinhv = s.mcauseMinhv := by unfold writeReg; split <;> rfl
@[simp] theorem writeReg_mtval (s : State) (r : Reg) (v : Word) : (writeReg s r v).mtval = s.mtval := by unfold writeReg; split <;> rfl
@[simp] theorem writeReg_mil (s : State) (r : Reg) (v : Word) : (writeReg s r v).mil = s.mil := by unfold writeReg; split <;> rfl
@[simp] theorem writeReg_mcycleBase (s : State) (r : Reg) (v : Word) : (writeReg s r v).mcycleBase = s.mcycleBase := by unfold writeReg; split <;> rfl
@[simp] theorem writeReg_minstret (s : State) (r : Reg) (v : Word) : (writeReg s r v).minstret = s.minstret := by unfold writeReg; split <;> rfl
@[simp] theorem writeReg_tselect (s : State) (r : Reg) (v : Word) : (writeReg s r v).tselect = s.tselect := by unfold writeReg; split <;> rfl
@[simp] theorem writeReg_triggers (s : State) (r : Reg) (v : Word) : (writeReg s r v).triggers = s.triggers := by unfold writeReg; split <;> rfl
@[simp] theorem writeReg_dcsrEbreakm (s : State) (r : Reg) (v : Word) : (writeReg s r v).dcsrEbreakm = s.dcsrEbreakm := by unfold writeReg; split <;> rfl
@[simp] theorem writeReg_dcsrStep (s : State) (r : Reg) (v : Word) : (writeReg s r v).dcsrStep = s.dcsrStep := by unfold writeReg; split <;> rfl
@[simp] theorem writeReg_dpc (s : State) (r : Reg) (v : Word) : (writeReg s r v).dpc = s.dpc := by unfold writeReg; split <;> rfl
@[simp] theorem writeReg_dscratch (s : State) (r : Reg) (v : Word) : (writeReg s r v).dscratch = s.dscratch := by unfold writeReg; split <;> rfl
@[simp] theorem writeReg_clic (s : State) (r : Reg) (v : Word) : (writeReg s r v).clic = s.clic := by unfold writeReg; split <;> rfl
@[simp] theorem writeReg_clicOld (s : State) (r : Reg) (v : Word) : (writeReg s r v).clicOld = s.clicOld := by unfold writeReg; split <;> rfl
@[simp] theorem writeReg_mtime (s : State) (r : Reg) (v : Word) : (writeReg s r v).mtime = s.mtime := by unfold writeReg; split <;> rfl
@[simp] theorem writeReg_meipWire (s : State) (r : Reg) (v : Word) : (writeReg s r v).meipWire = s.meipWire := by unfold writeReg; split <;> rfl
@[simp] theorem writeReg_lintWires (s : State) (r : Reg) (v : Word) : (writeReg s r v).lintWires = s.lintWires := by unfold writeReg; split <;> rfl
@[simp] theorem writeReg_inputs (s : State) (r : Reg) (v : Word) : (writeReg s r v).inputs = s.inputs := by unfold writeReg; split <;> rfl
@[simp] theorem writeReg_mem (s : State) (r : Reg) (v : Word) : (writeReg s r v).mem = s.mem := by unfold writeReg; split <;> rfl
@[simp] theorem writeReg_unfenced (s : State) (r : Reg) (v : Word) : (writeReg s r v).unfenced = s.unfenced := by unfold writeReg; split <;> rfl
@[simp] theorem writeReg_platform (s : State) (r : Reg) (v : Word) : (writeReg s r v).platform = s.platform := by unfold writeReg; split <;> rfl
@[simp] theorem writeReg_params (s : State) (r : Reg) (v : Word) : (writeReg s r v).params = s.params := by unfold writeReg; split <;> rfl
@[simp] theorem writeReg_boundary (s : State) (r : Reg) (v : Word) : (writeReg s r v).boundary = s.boundary := by unfold writeReg; split <;> rfl

/-! ## What trap entry saves (60 R440) -/

@[simp] theorem saveTrap_x (s : State) (i : Bool) (c : BitVec 10) (v : Word) : (saveTrap s i c v).x = s.x := rfl
@[simp] theorem saveTrap_pc (s : State) (i : Bool) (c : BitVec 10) (v : Word) : (saveTrap s i c v).pc = s.pc := rfl
@[simp] theorem saveTrap_debugMode (s : State) (i : Bool) (c : BitVec 10) (v : Word) : (saveTrap s i c v).debugMode = s.debugMode := rfl
@[simp] theorem saveTrap_waiting (s : State) (i : Bool) (c : BitVec 10) (v : Word) : (saveTrap s i c v).waiting = s.waiting := rfl
@[simp] theorem saveTrap_mstatusMie (s : State) (i : Bool) (c : BitVec 10) (v : Word) : (saveTrap s i c v).mstatusMie = false := rfl
@[simp] theorem saveTrap_mstatusMpie (s : State) (i : Bool) (c : BitVec 10) (v : Word) : (saveTrap s i c v).mstatusMpie = s.mstatusMie := rfl
@[simp] theorem saveTrap_mieMsie (s : State) (i : Bool) (c : BitVec 10) (v : Word) : (saveTrap s i c v).mieMsie = s.mieMsie := rfl
@[simp] theorem saveTrap_mieMtie (s : State) (i : Bool) (c : BitVec 10) (v : Word) : (saveTrap s i c v).mieMtie = s.mieMtie := rfl
@[simp] theorem saveTrap_mieMeie (s : State) (i : Bool) (c : BitVec 10) (v : Word) : (saveTrap s i c v).mieMeie = s.mieMeie := rfl
@[simp] theorem saveTrap_mtvec (s : State) (i : Bool) (c : BitVec 10) (v : Word) : (saveTrap s i c v).mtvec = s.mtvec := rfl
@[simp] theorem saveTrap_mtvt (s : State) (i : Bool) (c : BitVec 10) (v : Word) : (saveTrap s i c v).mtvt = s.mtvt := rfl
@[simp] theorem saveTrap_mscratch (s : State) (i : Bool) (c : BitVec 10) (v : Word) : (saveTrap s i c v).mscratch = s.mscratch := rfl
@[simp] theorem saveTrap_mepc (s : State) (i : Bool) (c : BitVec 10) (v : Word) : (saveTrap s i c v).mepc = s.pc := rfl
@[simp] theorem saveTrap_mcauseInterrupt (s : State) (i : Bool) (c : BitVec 10) (v : Word) : (saveTrap s i c v).mcauseInterrupt = i := rfl
@[simp] theorem saveTrap_mcauseCode (s : State) (i : Bool) (c : BitVec 10) (v : Word) : (saveTrap s i c v).mcauseCode = c := rfl
@[simp] theorem saveTrap_mcauseMpil (s : State) (i : Bool) (c : BitVec 10) (v : Word) : (saveTrap s i c v).mcauseMpil = (if clicMode s then s.mil else s.mcauseMpil) := rfl
@[simp] theorem saveTrap_mpilSeen (s : State) (i : Bool) (c : BitVec 10) (v : Word) : (saveTrap s i c v).mpilSeen = s.mpilSeen := rfl
@[simp] theorem saveTrap_mcauseMinhv (s : State) (i : Bool) (c : BitVec 10) (v : Word) : (saveTrap s i c v).mcauseMinhv = s.mcauseMinhv := rfl
@[simp] theorem saveTrap_mtval (s : State) (i : Bool) (c : BitVec 10) (v : Word) : (saveTrap s i c v).mtval = v := rfl
@[simp] theorem saveTrap_mil (s : State) (i : Bool) (c : BitVec 10) (v : Word) : (saveTrap s i c v).mil = s.mil := rfl
@[simp] theorem saveTrap_mcycleBase (s : State) (i : Bool) (c : BitVec 10) (v : Word) : (saveTrap s i c v).mcycleBase = s.mcycleBase := rfl
@[simp] theorem saveTrap_minstret (s : State) (i : Bool) (c : BitVec 10) (v : Word) : (saveTrap s i c v).minstret = s.minstret := rfl
@[simp] theorem saveTrap_tselect (s : State) (i : Bool) (c : BitVec 10) (v : Word) : (saveTrap s i c v).tselect = s.tselect := rfl
@[simp] theorem saveTrap_triggers (s : State) (i : Bool) (c : BitVec 10) (v : Word) : (saveTrap s i c v).triggers = s.triggers := rfl
@[simp] theorem saveTrap_dcsrEbreakm (s : State) (i : Bool) (c : BitVec 10) (v : Word) : (saveTrap s i c v).dcsrEbreakm = s.dcsrEbreakm := rfl
@[simp] theorem saveTrap_dcsrStep (s : State) (i : Bool) (c : BitVec 10) (v : Word) : (saveTrap s i c v).dcsrStep = s.dcsrStep := rfl
@[simp] theorem saveTrap_dpc (s : State) (i : Bool) (c : BitVec 10) (v : Word) : (saveTrap s i c v).dpc = s.dpc := rfl
@[simp] theorem saveTrap_dscratch (s : State) (i : Bool) (c : BitVec 10) (v : Word) : (saveTrap s i c v).dscratch = s.dscratch := rfl
@[simp] theorem saveTrap_clic (s : State) (i : Bool) (c : BitVec 10) (v : Word) : (saveTrap s i c v).clic = s.clic := rfl
@[simp] theorem saveTrap_clicOld (s : State) (i : Bool) (c : BitVec 10) (v : Word) : (saveTrap s i c v).clicOld = s.clicOld := rfl
@[simp] theorem saveTrap_mtime (s : State) (i : Bool) (c : BitVec 10) (v : Word) : (saveTrap s i c v).mtime = s.mtime := rfl
@[simp] theorem saveTrap_meipWire (s : State) (i : Bool) (c : BitVec 10) (v : Word) : (saveTrap s i c v).meipWire = s.meipWire := rfl
@[simp] theorem saveTrap_lintWires (s : State) (i : Bool) (c : BitVec 10) (v : Word) : (saveTrap s i c v).lintWires = s.lintWires := rfl
@[simp] theorem saveTrap_inputs (s : State) (i : Bool) (c : BitVec 10) (v : Word) : (saveTrap s i c v).inputs = s.inputs := rfl
@[simp] theorem saveTrap_mem (s : State) (i : Bool) (c : BitVec 10) (v : Word) : (saveTrap s i c v).mem = s.mem := rfl
@[simp] theorem saveTrap_unfenced (s : State) (i : Bool) (c : BitVec 10) (v : Word) : (saveTrap s i c v).unfenced = s.unfenced := rfl
@[simp] theorem saveTrap_platform (s : State) (i : Bool) (c : BitVec 10) (v : Word) : (saveTrap s i c v).platform = s.platform := rfl
@[simp] theorem saveTrap_params (s : State) (i : Bool) (c : BitVec 10) (v : Word) : (saveTrap s i c v).params = s.params := rfl
@[simp] theorem saveTrap_boundary (s : State) (i : Bool) (c : BitVec 10) (v : Word) : (saveTrap s i c v).boundary = s.boundary := rfl

/-! ## What interrupt entry saves (60 R440, R446) -/

@[simp] theorem saveInterrupt_x (s : State) (id : Nat) : (saveInterrupt s id).x = s.x := rfl
@[simp] theorem saveInterrupt_pc (s : State) (id : Nat) : (saveInterrupt s id).pc = s.pc := rfl
@[simp] theorem saveInterrupt_debugMode (s : State) (id : Nat) : (saveInterrupt s id).debugMode = s.debugMode := rfl
@[simp] theorem saveInterrupt_waiting (s : State) (id : Nat) : (saveInterrupt s id).waiting = s.waiting := rfl
@[simp] theorem saveInterrupt_mstatusMie (s : State) (id : Nat) : (saveInterrupt s id).mstatusMie = false := rfl
@[simp] theorem saveInterrupt_mstatusMpie (s : State) (id : Nat) : (saveInterrupt s id).mstatusMpie = s.mstatusMie := rfl
@[simp] theorem saveInterrupt_mieMsie (s : State) (id : Nat) : (saveInterrupt s id).mieMsie = s.mieMsie := rfl
@[simp] theorem saveInterrupt_mieMtie (s : State) (id : Nat) : (saveInterrupt s id).mieMtie = s.mieMtie := rfl
@[simp] theorem saveInterrupt_mieMeie (s : State) (id : Nat) : (saveInterrupt s id).mieMeie = s.mieMeie := rfl
@[simp] theorem saveInterrupt_mtvec (s : State) (id : Nat) : (saveInterrupt s id).mtvec = s.mtvec := rfl
@[simp] theorem saveInterrupt_mtvt (s : State) (id : Nat) : (saveInterrupt s id).mtvt = s.mtvt := rfl
@[simp] theorem saveInterrupt_mscratch (s : State) (id : Nat) : (saveInterrupt s id).mscratch = s.mscratch := rfl
@[simp] theorem saveInterrupt_mepc (s : State) (id : Nat) : (saveInterrupt s id).mepc = s.pc := rfl
@[simp] theorem saveInterrupt_mcauseInterrupt (s : State) (id : Nat) : (saveInterrupt s id).mcauseInterrupt = true := rfl
@[simp] theorem saveInterrupt_mcauseCode (s : State) (id : Nat) : (saveInterrupt s id).mcauseCode = (BitVec.ofNat 10 id) := rfl
@[simp] theorem saveInterrupt_mcauseMpil (s : State) (id : Nat) : (saveInterrupt s id).mcauseMpil = (if clicMode s then s.mil else s.mcauseMpil) := rfl
@[simp] theorem saveInterrupt_mpilSeen (s : State) (id : Nat) : (saveInterrupt s id).mpilSeen = s.mpilSeen := rfl
@[simp] theorem saveInterrupt_mcauseMinhv (s : State) (id : Nat) : (saveInterrupt s id).mcauseMinhv = s.mcauseMinhv := rfl
@[simp] theorem saveInterrupt_mtval (s : State) (id : Nat) : (saveInterrupt s id).mtval = 0#32 := rfl
@[simp] theorem saveInterrupt_mil (s : State) (id : Nat) : (saveInterrupt s id).mil = (if clicMode s then levelSeen s id else s.mil) := rfl
@[simp] theorem saveInterrupt_mcycleBase (s : State) (id : Nat) : (saveInterrupt s id).mcycleBase = s.mcycleBase := rfl
@[simp] theorem saveInterrupt_minstret (s : State) (id : Nat) : (saveInterrupt s id).minstret = s.minstret := rfl
@[simp] theorem saveInterrupt_tselect (s : State) (id : Nat) : (saveInterrupt s id).tselect = s.tselect := rfl
@[simp] theorem saveInterrupt_triggers (s : State) (id : Nat) : (saveInterrupt s id).triggers = s.triggers := rfl
@[simp] theorem saveInterrupt_dcsrEbreakm (s : State) (id : Nat) : (saveInterrupt s id).dcsrEbreakm = s.dcsrEbreakm := rfl
@[simp] theorem saveInterrupt_dcsrStep (s : State) (id : Nat) : (saveInterrupt s id).dcsrStep = s.dcsrStep := rfl
@[simp] theorem saveInterrupt_dpc (s : State) (id : Nat) : (saveInterrupt s id).dpc = s.dpc := rfl
@[simp] theorem saveInterrupt_dscratch (s : State) (id : Nat) : (saveInterrupt s id).dscratch = s.dscratch := rfl
@[simp] theorem saveInterrupt_clic (s : State) (id : Nat) : (saveInterrupt s id).clic = s.clic := rfl
@[simp] theorem saveInterrupt_clicOld (s : State) (id : Nat) : (saveInterrupt s id).clicOld = s.clicOld := rfl
@[simp] theorem saveInterrupt_mtime (s : State) (id : Nat) : (saveInterrupt s id).mtime = s.mtime := rfl
@[simp] theorem saveInterrupt_meipWire (s : State) (id : Nat) : (saveInterrupt s id).meipWire = s.meipWire := rfl
@[simp] theorem saveInterrupt_lintWires (s : State) (id : Nat) : (saveInterrupt s id).lintWires = s.lintWires := rfl
@[simp] theorem saveInterrupt_inputs (s : State) (id : Nat) : (saveInterrupt s id).inputs = s.inputs := rfl
@[simp] theorem saveInterrupt_mem (s : State) (id : Nat) : (saveInterrupt s id).mem = s.mem := rfl
@[simp] theorem saveInterrupt_unfenced (s : State) (id : Nat) : (saveInterrupt s id).unfenced = s.unfenced := rfl
@[simp] theorem saveInterrupt_platform (s : State) (id : Nat) : (saveInterrupt s id).platform = s.platform := rfl
@[simp] theorem saveInterrupt_params (s : State) (id : Nat) : (saveInterrupt s id).params = s.params := rfl
@[simp] theorem saveInterrupt_boundary (s : State) (id : Nat) : (saveInterrupt s id).boundary = s.boundary := rfl

/-! ## Trap return (43 R316, 60 R470) -/

@[simp] theorem trapReturn_x (s : State) : (trapReturn s).x = s.x := rfl
@[simp] theorem trapReturn_pc (s : State) : (trapReturn s).pc = s.pc := rfl
@[simp] theorem trapReturn_debugMode (s : State) : (trapReturn s).debugMode = s.debugMode := rfl
@[simp] theorem trapReturn_waiting (s : State) : (trapReturn s).waiting = s.waiting := rfl
@[simp] theorem trapReturn_mstatusMie (s : State) : (trapReturn s).mstatusMie = s.mstatusMpie := rfl
@[simp] theorem trapReturn_mstatusMpie (s : State) : (trapReturn s).mstatusMpie = true := rfl
@[simp] theorem trapReturn_mieMsie (s : State) : (trapReturn s).mieMsie = s.mieMsie := rfl
@[simp] theorem trapReturn_mieMtie (s : State) : (trapReturn s).mieMtie = s.mieMtie := rfl
@[simp] theorem trapReturn_mieMeie (s : State) : (trapReturn s).mieMeie = s.mieMeie := rfl
@[simp] theorem trapReturn_mtvec (s : State) : (trapReturn s).mtvec = s.mtvec := rfl
@[simp] theorem trapReturn_mtvt (s : State) : (trapReturn s).mtvt = s.mtvt := rfl
@[simp] theorem trapReturn_mscratch (s : State) : (trapReturn s).mscratch = s.mscratch := rfl
@[simp] theorem trapReturn_mepc (s : State) : (trapReturn s).mepc = s.mepc := rfl
@[simp] theorem trapReturn_mcauseInterrupt (s : State) : (trapReturn s).mcauseInterrupt = s.mcauseInterrupt := rfl
@[simp] theorem trapReturn_mcauseCode (s : State) : (trapReturn s).mcauseCode = s.mcauseCode := rfl
@[simp] theorem trapReturn_mcauseMpil (s : State) : (trapReturn s).mcauseMpil = s.mcauseMpil := rfl
@[simp] theorem trapReturn_mpilSeen (s : State) : (trapReturn s).mpilSeen = s.mpilSeen := rfl
@[simp] theorem trapReturn_mcauseMinhv (s : State) : (trapReturn s).mcauseMinhv = s.mcauseMinhv := rfl
@[simp] theorem trapReturn_mtval (s : State) : (trapReturn s).mtval = s.mtval := rfl
@[simp] theorem trapReturn_mil (s : State) : (trapReturn s).mil = (if clicMode s then s.mcauseMpil else s.mil) := rfl
@[simp] theorem trapReturn_mcycleBase (s : State) : (trapReturn s).mcycleBase = s.mcycleBase := rfl
@[simp] theorem trapReturn_minstret (s : State) : (trapReturn s).minstret = s.minstret := rfl
@[simp] theorem trapReturn_tselect (s : State) : (trapReturn s).tselect = s.tselect := rfl
@[simp] theorem trapReturn_triggers (s : State) : (trapReturn s).triggers = s.triggers := rfl
@[simp] theorem trapReturn_dcsrEbreakm (s : State) : (trapReturn s).dcsrEbreakm = s.dcsrEbreakm := rfl
@[simp] theorem trapReturn_dcsrStep (s : State) : (trapReturn s).dcsrStep = s.dcsrStep := rfl
@[simp] theorem trapReturn_dpc (s : State) : (trapReturn s).dpc = s.dpc := rfl
@[simp] theorem trapReturn_dscratch (s : State) : (trapReturn s).dscratch = s.dscratch := rfl
@[simp] theorem trapReturn_clic (s : State) : (trapReturn s).clic = s.clic := rfl
@[simp] theorem trapReturn_clicOld (s : State) : (trapReturn s).clicOld = s.clicOld := rfl
@[simp] theorem trapReturn_mtime (s : State) : (trapReturn s).mtime = s.mtime := rfl
@[simp] theorem trapReturn_meipWire (s : State) : (trapReturn s).meipWire = s.meipWire := rfl
@[simp] theorem trapReturn_lintWires (s : State) : (trapReturn s).lintWires = s.lintWires := rfl
@[simp] theorem trapReturn_inputs (s : State) : (trapReturn s).inputs = s.inputs := rfl
@[simp] theorem trapReturn_mem (s : State) : (trapReturn s).mem = s.mem := rfl
@[simp] theorem trapReturn_unfenced (s : State) : (trapReturn s).unfenced = s.unfenced := rfl
@[simp] theorem trapReturn_platform (s : State) : (trapReturn s).platform = s.platform := rfl
@[simp] theorem trapReturn_params (s : State) : (trapReturn s).params = s.params := rfl
@[simp] theorem trapReturn_boundary (s : State) : (trapReturn s).boundary = s.boundary := rfl

/-! ## Entering debug mode (62 R570) -/

@[simp] theorem enterDebug_x (s : State) : (enterDebug s).x = s.x := rfl
@[simp] theorem enterDebug_pc (s : State) : (enterDebug s).pc = debugEntry := rfl
@[simp] theorem enterDebug_debugMode (s : State) : (enterDebug s).debugMode = true := rfl
@[simp] theorem enterDebug_waiting (s : State) : (enterDebug s).waiting = s.waiting := rfl
@[simp] theorem enterDebug_mstatusMie (s : State) : (enterDebug s).mstatusMie = s.mstatusMie := rfl
@[simp] theorem enterDebug_mstatusMpie (s : State) : (enterDebug s).mstatusMpie = s.mstatusMpie := rfl
@[simp] theorem enterDebug_mieMsie (s : State) : (enterDebug s).mieMsie = s.mieMsie := rfl
@[simp] theorem enterDebug_mieMtie (s : State) : (enterDebug s).mieMtie = s.mieMtie := rfl
@[simp] theorem enterDebug_mieMeie (s : State) : (enterDebug s).mieMeie = s.mieMeie := rfl
@[simp] theorem enterDebug_mtvec (s : State) : (enterDebug s).mtvec = s.mtvec := rfl
@[simp] theorem enterDebug_mtvt (s : State) : (enterDebug s).mtvt = s.mtvt := rfl
@[simp] theorem enterDebug_mscratch (s : State) : (enterDebug s).mscratch = s.mscratch := rfl
@[simp] theorem enterDebug_mepc (s : State) : (enterDebug s).mepc = s.mepc := rfl
@[simp] theorem enterDebug_mcauseInterrupt (s : State) : (enterDebug s).mcauseInterrupt = s.mcauseInterrupt := rfl
@[simp] theorem enterDebug_mcauseCode (s : State) : (enterDebug s).mcauseCode = s.mcauseCode := rfl
@[simp] theorem enterDebug_mcauseMpil (s : State) : (enterDebug s).mcauseMpil = s.mcauseMpil := rfl
@[simp] theorem enterDebug_mpilSeen (s : State) : (enterDebug s).mpilSeen = s.mpilSeen := rfl
@[simp] theorem enterDebug_mcauseMinhv (s : State) : (enterDebug s).mcauseMinhv = s.mcauseMinhv := rfl
@[simp] theorem enterDebug_mtval (s : State) : (enterDebug s).mtval = s.mtval := rfl
@[simp] theorem enterDebug_mil (s : State) : (enterDebug s).mil = s.mil := rfl
@[simp] theorem enterDebug_mcycleBase (s : State) : (enterDebug s).mcycleBase = s.mcycleBase := rfl
@[simp] theorem enterDebug_minstret (s : State) : (enterDebug s).minstret = s.minstret := rfl
@[simp] theorem enterDebug_tselect (s : State) : (enterDebug s).tselect = s.tselect := rfl
@[simp] theorem enterDebug_triggers (s : State) : (enterDebug s).triggers = s.triggers := rfl
@[simp] theorem enterDebug_dcsrEbreakm (s : State) : (enterDebug s).dcsrEbreakm = s.dcsrEbreakm := rfl
@[simp] theorem enterDebug_dcsrStep (s : State) : (enterDebug s).dcsrStep = s.dcsrStep := rfl
@[simp] theorem enterDebug_dpc (s : State) : (enterDebug s).dpc = s.pc := rfl
@[simp] theorem enterDebug_dscratch (s : State) : (enterDebug s).dscratch = s.dscratch := rfl
@[simp] theorem enterDebug_clic (s : State) : (enterDebug s).clic = s.clic := rfl
@[simp] theorem enterDebug_clicOld (s : State) : (enterDebug s).clicOld = s.clicOld := rfl
@[simp] theorem enterDebug_mtime (s : State) : (enterDebug s).mtime = s.mtime := rfl
@[simp] theorem enterDebug_meipWire (s : State) : (enterDebug s).meipWire = s.meipWire := rfl
@[simp] theorem enterDebug_lintWires (s : State) : (enterDebug s).lintWires = s.lintWires := rfl
@[simp] theorem enterDebug_inputs (s : State) : (enterDebug s).inputs = s.inputs := rfl
@[simp] theorem enterDebug_mem (s : State) : (enterDebug s).mem = s.mem := rfl
@[simp] theorem enterDebug_unfenced (s : State) : (enterDebug s).unfenced = s.unfenced := rfl
@[simp] theorem enterDebug_platform (s : State) : (enterDebug s).platform = s.platform := rfl
@[simp] theorem enterDebug_params (s : State) : (enterDebug s).params = s.params := rfl
@[simp] theorem enterDebug_boundary (s : State) : (enterDebug s).boundary = s.boundary := rfl

/-! ## A load from the CLIC region (20 R161) -/

@[simp] theorem closeClicWindow_x (s : State) (a : Word) : (closeClicWindow s a).x = s.x := by unfold closeClicWindow; split <;> rfl
@[simp] theorem closeClicWindow_pc (s : State) (a : Word) : (closeClicWindow s a).pc = s.pc := by unfold closeClicWindow; split <;> rfl
@[simp] theorem closeClicWindow_debugMode (s : State) (a : Word) : (closeClicWindow s a).debugMode = s.debugMode := by unfold closeClicWindow; split <;> rfl
@[simp] theorem closeClicWindow_waiting (s : State) (a : Word) : (closeClicWindow s a).waiting = s.waiting := by unfold closeClicWindow; split <;> rfl
@[simp] theorem closeClicWindow_mstatusMie (s : State) (a : Word) : (closeClicWindow s a).mstatusMie = s.mstatusMie := by unfold closeClicWindow; split <;> rfl
@[simp] theorem closeClicWindow_mstatusMpie (s : State) (a : Word) : (closeClicWindow s a).mstatusMpie = s.mstatusMpie := by unfold closeClicWindow; split <;> rfl
@[simp] theorem closeClicWindow_mieMsie (s : State) (a : Word) : (closeClicWindow s a).mieMsie = s.mieMsie := by unfold closeClicWindow; split <;> rfl
@[simp] theorem closeClicWindow_mieMtie (s : State) (a : Word) : (closeClicWindow s a).mieMtie = s.mieMtie := by unfold closeClicWindow; split <;> rfl
@[simp] theorem closeClicWindow_mieMeie (s : State) (a : Word) : (closeClicWindow s a).mieMeie = s.mieMeie := by unfold closeClicWindow; split <;> rfl
@[simp] theorem closeClicWindow_mtvec (s : State) (a : Word) : (closeClicWindow s a).mtvec = s.mtvec := by unfold closeClicWindow; split <;> rfl
@[simp] theorem closeClicWindow_mtvt (s : State) (a : Word) : (closeClicWindow s a).mtvt = s.mtvt := by unfold closeClicWindow; split <;> rfl
@[simp] theorem closeClicWindow_mscratch (s : State) (a : Word) : (closeClicWindow s a).mscratch = s.mscratch := by unfold closeClicWindow; split <;> rfl
@[simp] theorem closeClicWindow_mepc (s : State) (a : Word) : (closeClicWindow s a).mepc = s.mepc := by unfold closeClicWindow; split <;> rfl
@[simp] theorem closeClicWindow_mcauseInterrupt (s : State) (a : Word) : (closeClicWindow s a).mcauseInterrupt = s.mcauseInterrupt := by unfold closeClicWindow; split <;> rfl
@[simp] theorem closeClicWindow_mcauseCode (s : State) (a : Word) : (closeClicWindow s a).mcauseCode = s.mcauseCode := by unfold closeClicWindow; split <;> rfl
@[simp] theorem closeClicWindow_mcauseMpil (s : State) (a : Word) : (closeClicWindow s a).mcauseMpil = s.mcauseMpil := by unfold closeClicWindow; split <;> rfl
@[simp] theorem closeClicWindow_mpilSeen (s : State) (a : Word) : (closeClicWindow s a).mpilSeen = s.mpilSeen := by unfold closeClicWindow; split <;> rfl
@[simp] theorem closeClicWindow_mcauseMinhv (s : State) (a : Word) : (closeClicWindow s a).mcauseMinhv = s.mcauseMinhv := by unfold closeClicWindow; split <;> rfl
@[simp] theorem closeClicWindow_mtval (s : State) (a : Word) : (closeClicWindow s a).mtval = s.mtval := by unfold closeClicWindow; split <;> rfl
@[simp] theorem closeClicWindow_mil (s : State) (a : Word) : (closeClicWindow s a).mil = s.mil := by unfold closeClicWindow; split <;> rfl
@[simp] theorem closeClicWindow_mcycleBase (s : State) (a : Word) : (closeClicWindow s a).mcycleBase = s.mcycleBase := by unfold closeClicWindow; split <;> rfl
@[simp] theorem closeClicWindow_minstret (s : State) (a : Word) : (closeClicWindow s a).minstret = s.minstret := by unfold closeClicWindow; split <;> rfl
@[simp] theorem closeClicWindow_tselect (s : State) (a : Word) : (closeClicWindow s a).tselect = s.tselect := by unfold closeClicWindow; split <;> rfl
@[simp] theorem closeClicWindow_triggers (s : State) (a : Word) : (closeClicWindow s a).triggers = s.triggers := by unfold closeClicWindow; split <;> rfl
@[simp] theorem closeClicWindow_dcsrEbreakm (s : State) (a : Word) : (closeClicWindow s a).dcsrEbreakm = s.dcsrEbreakm := by unfold closeClicWindow; split <;> rfl
@[simp] theorem closeClicWindow_dcsrStep (s : State) (a : Word) : (closeClicWindow s a).dcsrStep = s.dcsrStep := by unfold closeClicWindow; split <;> rfl
@[simp] theorem closeClicWindow_dpc (s : State) (a : Word) : (closeClicWindow s a).dpc = s.dpc := by unfold closeClicWindow; split <;> rfl
@[simp] theorem closeClicWindow_dscratch (s : State) (a : Word) : (closeClicWindow s a).dscratch = s.dscratch := by unfold closeClicWindow; split <;> rfl
@[simp] theorem closeClicWindow_clic (s : State) (a : Word) : (closeClicWindow s a).clic = s.clic := by unfold closeClicWindow; split <;> rfl
@[simp] theorem closeClicWindow_mtime (s : State) (a : Word) : (closeClicWindow s a).mtime = s.mtime := by unfold closeClicWindow; split <;> rfl
@[simp] theorem closeClicWindow_meipWire (s : State) (a : Word) : (closeClicWindow s a).meipWire = s.meipWire := by unfold closeClicWindow; split <;> rfl
@[simp] theorem closeClicWindow_lintWires (s : State) (a : Word) : (closeClicWindow s a).lintWires = s.lintWires := by unfold closeClicWindow; split <;> rfl
@[simp] theorem closeClicWindow_inputs (s : State) (a : Word) : (closeClicWindow s a).inputs = s.inputs := by unfold closeClicWindow; split <;> rfl
@[simp] theorem closeClicWindow_mem (s : State) (a : Word) : (closeClicWindow s a).mem = s.mem := by unfold closeClicWindow; split <;> rfl
@[simp] theorem closeClicWindow_unfenced (s : State) (a : Word) : (closeClicWindow s a).unfenced = s.unfenced := by unfold closeClicWindow; split <;> rfl
@[simp] theorem closeClicWindow_platform (s : State) (a : Word) : (closeClicWindow s a).platform = s.platform := by unfold closeClicWindow; split <;> rfl
@[simp] theorem closeClicWindow_params (s : State) (a : Word) : (closeClicWindow s a).params = s.params := by unfold closeClicWindow; split <;> rfl
@[simp] theorem closeClicWindow_boundary (s : State) (a : Word) : (closeClicWindow s a).boundary = s.boundary := by unfold closeClicWindow; split <;> rfl

/-! ## A store to the CLIC region (20 R161) -/

@[simp] theorem openClicWindow_x (s t : State) : (openClicWindow s t).x = t.x := by unfold openClicWindow; split <;> rfl
@[simp] theorem openClicWindow_pc (s t : State) : (openClicWindow s t).pc = t.pc := by unfold openClicWindow; split <;> rfl
@[simp] theorem openClicWindow_debugMode (s t : State) : (openClicWindow s t).debugMode = t.debugMode := by unfold openClicWindow; split <;> rfl
@[simp] theorem openClicWindow_waiting (s t : State) : (openClicWindow s t).waiting = t.waiting := by unfold openClicWindow; split <;> rfl
@[simp] theorem openClicWindow_mstatusMie (s t : State) : (openClicWindow s t).mstatusMie = t.mstatusMie := by unfold openClicWindow; split <;> rfl
@[simp] theorem openClicWindow_mstatusMpie (s t : State) : (openClicWindow s t).mstatusMpie = t.mstatusMpie := by unfold openClicWindow; split <;> rfl
@[simp] theorem openClicWindow_mieMsie (s t : State) : (openClicWindow s t).mieMsie = t.mieMsie := by unfold openClicWindow; split <;> rfl
@[simp] theorem openClicWindow_mieMtie (s t : State) : (openClicWindow s t).mieMtie = t.mieMtie := by unfold openClicWindow; split <;> rfl
@[simp] theorem openClicWindow_mieMeie (s t : State) : (openClicWindow s t).mieMeie = t.mieMeie := by unfold openClicWindow; split <;> rfl
@[simp] theorem openClicWindow_mtvec (s t : State) : (openClicWindow s t).mtvec = t.mtvec := by unfold openClicWindow; split <;> rfl
@[simp] theorem openClicWindow_mtvt (s t : State) : (openClicWindow s t).mtvt = t.mtvt := by unfold openClicWindow; split <;> rfl
@[simp] theorem openClicWindow_mscratch (s t : State) : (openClicWindow s t).mscratch = t.mscratch := by unfold openClicWindow; split <;> rfl
@[simp] theorem openClicWindow_mepc (s t : State) : (openClicWindow s t).mepc = t.mepc := by unfold openClicWindow; split <;> rfl
@[simp] theorem openClicWindow_mcauseInterrupt (s t : State) : (openClicWindow s t).mcauseInterrupt = t.mcauseInterrupt := by unfold openClicWindow; split <;> rfl
@[simp] theorem openClicWindow_mcauseCode (s t : State) : (openClicWindow s t).mcauseCode = t.mcauseCode := by unfold openClicWindow; split <;> rfl
@[simp] theorem openClicWindow_mcauseMpil (s t : State) : (openClicWindow s t).mcauseMpil = t.mcauseMpil := by unfold openClicWindow; split <;> rfl
@[simp] theorem openClicWindow_mpilSeen (s t : State) : (openClicWindow s t).mpilSeen = t.mpilSeen := by unfold openClicWindow; split <;> rfl
@[simp] theorem openClicWindow_mcauseMinhv (s t : State) : (openClicWindow s t).mcauseMinhv = t.mcauseMinhv := by unfold openClicWindow; split <;> rfl
@[simp] theorem openClicWindow_mtval (s t : State) : (openClicWindow s t).mtval = t.mtval := by unfold openClicWindow; split <;> rfl
@[simp] theorem openClicWindow_mil (s t : State) : (openClicWindow s t).mil = t.mil := by unfold openClicWindow; split <;> rfl
@[simp] theorem openClicWindow_mcycleBase (s t : State) : (openClicWindow s t).mcycleBase = t.mcycleBase := by unfold openClicWindow; split <;> rfl
@[simp] theorem openClicWindow_minstret (s t : State) : (openClicWindow s t).minstret = t.minstret := by unfold openClicWindow; split <;> rfl
@[simp] theorem openClicWindow_tselect (s t : State) : (openClicWindow s t).tselect = t.tselect := by unfold openClicWindow; split <;> rfl
@[simp] theorem openClicWindow_triggers (s t : State) : (openClicWindow s t).triggers = t.triggers := by unfold openClicWindow; split <;> rfl
@[simp] theorem openClicWindow_dcsrEbreakm (s t : State) : (openClicWindow s t).dcsrEbreakm = t.dcsrEbreakm := by unfold openClicWindow; split <;> rfl
@[simp] theorem openClicWindow_dcsrStep (s t : State) : (openClicWindow s t).dcsrStep = t.dcsrStep := by unfold openClicWindow; split <;> rfl
@[simp] theorem openClicWindow_dpc (s t : State) : (openClicWindow s t).dpc = t.dpc := by unfold openClicWindow; split <;> rfl
@[simp] theorem openClicWindow_dscratch (s t : State) : (openClicWindow s t).dscratch = t.dscratch := by unfold openClicWindow; split <;> rfl
@[simp] theorem openClicWindow_clic (s t : State) : (openClicWindow s t).clic = t.clic := by unfold openClicWindow; split <;> rfl
@[simp] theorem openClicWindow_mtime (s t : State) : (openClicWindow s t).mtime = t.mtime := by unfold openClicWindow; split <;> rfl
@[simp] theorem openClicWindow_meipWire (s t : State) : (openClicWindow s t).meipWire = t.meipWire := by unfold openClicWindow; split <;> rfl
@[simp] theorem openClicWindow_lintWires (s t : State) : (openClicWindow s t).lintWires = t.lintWires := by unfold openClicWindow; split <;> rfl
@[simp] theorem openClicWindow_inputs (s t : State) : (openClicWindow s t).inputs = t.inputs := by unfold openClicWindow; split <;> rfl
@[simp] theorem openClicWindow_mem (s t : State) : (openClicWindow s t).mem = t.mem := by unfold openClicWindow; split <;> rfl
@[simp] theorem openClicWindow_unfenced (s t : State) : (openClicWindow s t).unfenced = t.unfenced := by unfold openClicWindow; split <;> rfl
@[simp] theorem openClicWindow_platform (s t : State) : (openClicWindow s t).platform = t.platform := by unfold openClicWindow; split <;> rfl
@[simp] theorem openClicWindow_params (s t : State) : (openClicWindow s t).params = t.params := by unfold openClicWindow; split <;> rfl
@[simp] theorem openClicWindow_boundary (s t : State) : (openClicWindow s t).boundary = t.boundary := by unfold openClicWindow; split <;> rfl

/-! ## A store to RAM (20 R151, R170) -/

@[simp] theorem storeRam_x (s : State) (a : Nat) (w : Size) (v : Word) : (storeRam s a w v).x = s.x := rfl
@[simp] theorem storeRam_pc (s : State) (a : Nat) (w : Size) (v : Word) : (storeRam s a w v).pc = s.pc := rfl
@[simp] theorem storeRam_debugMode (s : State) (a : Nat) (w : Size) (v : Word) : (storeRam s a w v).debugMode = s.debugMode := rfl
@[simp] theorem storeRam_waiting (s : State) (a : Nat) (w : Size) (v : Word) : (storeRam s a w v).waiting = s.waiting := rfl
@[simp] theorem storeRam_mstatusMie (s : State) (a : Nat) (w : Size) (v : Word) : (storeRam s a w v).mstatusMie = s.mstatusMie := rfl
@[simp] theorem storeRam_mstatusMpie (s : State) (a : Nat) (w : Size) (v : Word) : (storeRam s a w v).mstatusMpie = s.mstatusMpie := rfl
@[simp] theorem storeRam_mieMsie (s : State) (a : Nat) (w : Size) (v : Word) : (storeRam s a w v).mieMsie = s.mieMsie := rfl
@[simp] theorem storeRam_mieMtie (s : State) (a : Nat) (w : Size) (v : Word) : (storeRam s a w v).mieMtie = s.mieMtie := rfl
@[simp] theorem storeRam_mieMeie (s : State) (a : Nat) (w : Size) (v : Word) : (storeRam s a w v).mieMeie = s.mieMeie := rfl
@[simp] theorem storeRam_mtvec (s : State) (a : Nat) (w : Size) (v : Word) : (storeRam s a w v).mtvec = s.mtvec := rfl
@[simp] theorem storeRam_mtvt (s : State) (a : Nat) (w : Size) (v : Word) : (storeRam s a w v).mtvt = s.mtvt := rfl
@[simp] theorem storeRam_mscratch (s : State) (a : Nat) (w : Size) (v : Word) : (storeRam s a w v).mscratch = s.mscratch := rfl
@[simp] theorem storeRam_mepc (s : State) (a : Nat) (w : Size) (v : Word) : (storeRam s a w v).mepc = s.mepc := rfl
@[simp] theorem storeRam_mcauseInterrupt (s : State) (a : Nat) (w : Size) (v : Word) : (storeRam s a w v).mcauseInterrupt = s.mcauseInterrupt := rfl
@[simp] theorem storeRam_mcauseCode (s : State) (a : Nat) (w : Size) (v : Word) : (storeRam s a w v).mcauseCode = s.mcauseCode := rfl
@[simp] theorem storeRam_mcauseMpil (s : State) (a : Nat) (w : Size) (v : Word) : (storeRam s a w v).mcauseMpil = s.mcauseMpil := rfl
@[simp] theorem storeRam_mpilSeen (s : State) (a : Nat) (w : Size) (v : Word) : (storeRam s a w v).mpilSeen = s.mpilSeen := rfl
@[simp] theorem storeRam_mcauseMinhv (s : State) (a : Nat) (w : Size) (v : Word) : (storeRam s a w v).mcauseMinhv = s.mcauseMinhv := rfl
@[simp] theorem storeRam_mtval (s : State) (a : Nat) (w : Size) (v : Word) : (storeRam s a w v).mtval = s.mtval := rfl
@[simp] theorem storeRam_mil (s : State) (a : Nat) (w : Size) (v : Word) : (storeRam s a w v).mil = s.mil := rfl
@[simp] theorem storeRam_mcycleBase (s : State) (a : Nat) (w : Size) (v : Word) : (storeRam s a w v).mcycleBase = s.mcycleBase := rfl
@[simp] theorem storeRam_minstret (s : State) (a : Nat) (w : Size) (v : Word) : (storeRam s a w v).minstret = s.minstret := rfl
@[simp] theorem storeRam_tselect (s : State) (a : Nat) (w : Size) (v : Word) : (storeRam s a w v).tselect = s.tselect := rfl
@[simp] theorem storeRam_triggers (s : State) (a : Nat) (w : Size) (v : Word) : (storeRam s a w v).triggers = s.triggers := rfl
@[simp] theorem storeRam_dcsrEbreakm (s : State) (a : Nat) (w : Size) (v : Word) : (storeRam s a w v).dcsrEbreakm = s.dcsrEbreakm := rfl
@[simp] theorem storeRam_dcsrStep (s : State) (a : Nat) (w : Size) (v : Word) : (storeRam s a w v).dcsrStep = s.dcsrStep := rfl
@[simp] theorem storeRam_dpc (s : State) (a : Nat) (w : Size) (v : Word) : (storeRam s a w v).dpc = s.dpc := rfl
@[simp] theorem storeRam_dscratch (s : State) (a : Nat) (w : Size) (v : Word) : (storeRam s a w v).dscratch = s.dscratch := rfl
@[simp] theorem storeRam_clic (s : State) (a : Nat) (w : Size) (v : Word) : (storeRam s a w v).clic = s.clic := rfl
@[simp] theorem storeRam_clicOld (s : State) (a : Nat) (w : Size) (v : Word) : (storeRam s a w v).clicOld = s.clicOld := rfl
@[simp] theorem storeRam_mtime (s : State) (a : Nat) (w : Size) (v : Word) : (storeRam s a w v).mtime = s.mtime := rfl
@[simp] theorem storeRam_meipWire (s : State) (a : Nat) (w : Size) (v : Word) : (storeRam s a w v).meipWire = s.meipWire := rfl
@[simp] theorem storeRam_lintWires (s : State) (a : Nat) (w : Size) (v : Word) : (storeRam s a w v).lintWires = s.lintWires := rfl
@[simp] theorem storeRam_inputs (s : State) (a : Nat) (w : Size) (v : Word) : (storeRam s a w v).inputs = s.inputs := rfl
@[simp] theorem storeRam_mem (s : State) (a : Nat) (w : Size) (v : Word) : (storeRam s a w v).mem = (Memory.writeBytes s.mem a (bytesOf v w.bytes)) := rfl
@[simp] theorem storeRam_unfenced (s : State) (a : Nat) (w : Size) (v : Word) : (storeRam s a w v).unfenced = (⟨a, Memory.readBytes s.mem a w.bytes⟩ :: s.unfenced) := rfl
@[simp] theorem storeRam_platform (s : State) (a : Nat) (w : Size) (v : Word) : (storeRam s a w v).platform = s.platform := rfl
@[simp] theorem storeRam_params (s : State) (a : Nat) (w : Size) (v : Word) : (storeRam s a w v).params = s.params := rfl
@[simp] theorem storeRam_boundary (s : State) (a : Nat) (w : Size) (v : Word) : (storeRam s a w v).boundary = s.boundary := rfl

/-! ## Writing a trigger (10 R101) -/

@[simp] theorem setTrigger_x (s : State) (t : Trigger) : (setTrigger s t).x = s.x := rfl
@[simp] theorem setTrigger_pc (s : State) (t : Trigger) : (setTrigger s t).pc = s.pc := rfl
@[simp] theorem setTrigger_debugMode (s : State) (t : Trigger) : (setTrigger s t).debugMode = s.debugMode := rfl
@[simp] theorem setTrigger_waiting (s : State) (t : Trigger) : (setTrigger s t).waiting = s.waiting := rfl
@[simp] theorem setTrigger_mstatusMie (s : State) (t : Trigger) : (setTrigger s t).mstatusMie = s.mstatusMie := rfl
@[simp] theorem setTrigger_mstatusMpie (s : State) (t : Trigger) : (setTrigger s t).mstatusMpie = s.mstatusMpie := rfl
@[simp] theorem setTrigger_mieMsie (s : State) (t : Trigger) : (setTrigger s t).mieMsie = s.mieMsie := rfl
@[simp] theorem setTrigger_mieMtie (s : State) (t : Trigger) : (setTrigger s t).mieMtie = s.mieMtie := rfl
@[simp] theorem setTrigger_mieMeie (s : State) (t : Trigger) : (setTrigger s t).mieMeie = s.mieMeie := rfl
@[simp] theorem setTrigger_mtvec (s : State) (t : Trigger) : (setTrigger s t).mtvec = s.mtvec := rfl
@[simp] theorem setTrigger_mtvt (s : State) (t : Trigger) : (setTrigger s t).mtvt = s.mtvt := rfl
@[simp] theorem setTrigger_mscratch (s : State) (t : Trigger) : (setTrigger s t).mscratch = s.mscratch := rfl
@[simp] theorem setTrigger_mepc (s : State) (t : Trigger) : (setTrigger s t).mepc = s.mepc := rfl
@[simp] theorem setTrigger_mcauseInterrupt (s : State) (t : Trigger) : (setTrigger s t).mcauseInterrupt = s.mcauseInterrupt := rfl
@[simp] theorem setTrigger_mcauseCode (s : State) (t : Trigger) : (setTrigger s t).mcauseCode = s.mcauseCode := rfl
@[simp] theorem setTrigger_mcauseMpil (s : State) (t : Trigger) : (setTrigger s t).mcauseMpil = s.mcauseMpil := rfl
@[simp] theorem setTrigger_mpilSeen (s : State) (t : Trigger) : (setTrigger s t).mpilSeen = s.mpilSeen := rfl
@[simp] theorem setTrigger_mcauseMinhv (s : State) (t : Trigger) : (setTrigger s t).mcauseMinhv = s.mcauseMinhv := rfl
@[simp] theorem setTrigger_mtval (s : State) (t : Trigger) : (setTrigger s t).mtval = s.mtval := rfl
@[simp] theorem setTrigger_mil (s : State) (t : Trigger) : (setTrigger s t).mil = s.mil := rfl
@[simp] theorem setTrigger_mcycleBase (s : State) (t : Trigger) : (setTrigger s t).mcycleBase = s.mcycleBase := rfl
@[simp] theorem setTrigger_minstret (s : State) (t : Trigger) : (setTrigger s t).minstret = s.minstret := rfl
@[simp] theorem setTrigger_tselect (s : State) (t : Trigger) : (setTrigger s t).tselect = s.tselect := rfl
@[simp] theorem setTrigger_triggers (s : State) (t : Trigger) : (setTrigger s t).triggers = (s.triggers.set s.tselect.toNat t s.tselect.isLt) := rfl
@[simp] theorem setTrigger_dcsrEbreakm (s : State) (t : Trigger) : (setTrigger s t).dcsrEbreakm = s.dcsrEbreakm := rfl
@[simp] theorem setTrigger_dcsrStep (s : State) (t : Trigger) : (setTrigger s t).dcsrStep = s.dcsrStep := rfl
@[simp] theorem setTrigger_dpc (s : State) (t : Trigger) : (setTrigger s t).dpc = s.dpc := rfl
@[simp] theorem setTrigger_dscratch (s : State) (t : Trigger) : (setTrigger s t).dscratch = s.dscratch := rfl
@[simp] theorem setTrigger_clic (s : State) (t : Trigger) : (setTrigger s t).clic = s.clic := rfl
@[simp] theorem setTrigger_clicOld (s : State) (t : Trigger) : (setTrigger s t).clicOld = s.clicOld := rfl
@[simp] theorem setTrigger_mtime (s : State) (t : Trigger) : (setTrigger s t).mtime = s.mtime := rfl
@[simp] theorem setTrigger_meipWire (s : State) (t : Trigger) : (setTrigger s t).meipWire = s.meipWire := rfl
@[simp] theorem setTrigger_lintWires (s : State) (t : Trigger) : (setTrigger s t).lintWires = s.lintWires := rfl
@[simp] theorem setTrigger_inputs (s : State) (t : Trigger) : (setTrigger s t).inputs = s.inputs := rfl
@[simp] theorem setTrigger_mem (s : State) (t : Trigger) : (setTrigger s t).mem = s.mem := rfl
@[simp] theorem setTrigger_unfenced (s : State) (t : Trigger) : (setTrigger s t).unfenced = s.unfenced := rfl
@[simp] theorem setTrigger_platform (s : State) (t : Trigger) : (setTrigger s t).platform = s.platform := rfl
@[simp] theorem setTrigger_params (s : State) (t : Trigger) : (setTrigger s t).params = s.params := rfl
@[simp] theorem setTrigger_boundary (s : State) (t : Trigger) : (setTrigger s t).boundary = s.boundary := rfl

/-! ## Passing an instruction boundary (60 R463) -/

@[simp] theorem passBoundary_x (s : State) : (passBoundary s).x = s.x := by unfold passBoundary; split <;> rfl
@[simp] theorem passBoundary_pc (s : State) : (passBoundary s).pc = s.pc := by unfold passBoundary; split <;> rfl
@[simp] theorem passBoundary_debugMode (s : State) : (passBoundary s).debugMode = s.debugMode := by unfold passBoundary; split <;> rfl
@[simp] theorem passBoundary_waiting (s : State) : (passBoundary s).waiting = s.waiting := by unfold passBoundary; split <;> rfl
@[simp] theorem passBoundary_mstatusMie (s : State) : (passBoundary s).mstatusMie = s.mstatusMie := by unfold passBoundary; split <;> rfl
@[simp] theorem passBoundary_mstatusMpie (s : State) : (passBoundary s).mstatusMpie = s.mstatusMpie := by unfold passBoundary; split <;> rfl
@[simp] theorem passBoundary_mieMsie (s : State) : (passBoundary s).mieMsie = s.mieMsie := by unfold passBoundary; split <;> rfl
@[simp] theorem passBoundary_mieMtie (s : State) : (passBoundary s).mieMtie = s.mieMtie := by unfold passBoundary; split <;> rfl
@[simp] theorem passBoundary_mieMeie (s : State) : (passBoundary s).mieMeie = s.mieMeie := by unfold passBoundary; split <;> rfl
@[simp] theorem passBoundary_mtvec (s : State) : (passBoundary s).mtvec = s.mtvec := by unfold passBoundary; split <;> rfl
@[simp] theorem passBoundary_mtvt (s : State) : (passBoundary s).mtvt = s.mtvt := by unfold passBoundary; split <;> rfl
@[simp] theorem passBoundary_mscratch (s : State) : (passBoundary s).mscratch = s.mscratch := by unfold passBoundary; split <;> rfl
@[simp] theorem passBoundary_mepc (s : State) : (passBoundary s).mepc = s.mepc := by unfold passBoundary; split <;> rfl
@[simp] theorem passBoundary_mcauseInterrupt (s : State) : (passBoundary s).mcauseInterrupt = s.mcauseInterrupt := by unfold passBoundary; split <;> rfl
@[simp] theorem passBoundary_mcauseCode (s : State) : (passBoundary s).mcauseCode = s.mcauseCode := by unfold passBoundary; split <;> rfl
@[simp] theorem passBoundary_mcauseMpil (s : State) : (passBoundary s).mcauseMpil = s.mcauseMpil := by unfold passBoundary; split <;> rfl
@[simp] theorem passBoundary_mpilSeen (s : State) : (passBoundary s).mpilSeen = s.mpilSeen := by unfold passBoundary; split <;> rfl
@[simp] theorem passBoundary_mcauseMinhv (s : State) : (passBoundary s).mcauseMinhv = s.mcauseMinhv := by unfold passBoundary; split <;> rfl
@[simp] theorem passBoundary_mtval (s : State) : (passBoundary s).mtval = s.mtval := by unfold passBoundary; split <;> rfl
@[simp] theorem passBoundary_mil (s : State) : (passBoundary s).mil = s.mil := by unfold passBoundary; split <;> rfl
@[simp] theorem passBoundary_mcycleBase (s : State) : (passBoundary s).mcycleBase = s.mcycleBase := by unfold passBoundary; split <;> rfl
@[simp] theorem passBoundary_minstret (s : State) : (passBoundary s).minstret = s.minstret := by unfold passBoundary; split <;> rfl
@[simp] theorem passBoundary_tselect (s : State) : (passBoundary s).tselect = s.tselect := by unfold passBoundary; split <;> rfl
@[simp] theorem passBoundary_triggers (s : State) : (passBoundary s).triggers = s.triggers := by unfold passBoundary; split <;> rfl
@[simp] theorem passBoundary_dcsrEbreakm (s : State) : (passBoundary s).dcsrEbreakm = s.dcsrEbreakm := by unfold passBoundary; split <;> rfl
@[simp] theorem passBoundary_dcsrStep (s : State) : (passBoundary s).dcsrStep = s.dcsrStep := by unfold passBoundary; split <;> rfl
@[simp] theorem passBoundary_dpc (s : State) : (passBoundary s).dpc = s.dpc := by unfold passBoundary; split <;> rfl
@[simp] theorem passBoundary_dscratch (s : State) : (passBoundary s).dscratch = s.dscratch := by unfold passBoundary; split <;> rfl
@[simp] theorem passBoundary_clic (s : State) : (passBoundary s).clic = s.clic := by unfold passBoundary; split <;> rfl
@[simp] theorem passBoundary_clicOld (s : State) : (passBoundary s).clicOld = s.clicOld := by unfold passBoundary; split <;> rfl
@[simp] theorem passBoundary_mem (s : State) : (passBoundary s).mem = s.mem := by unfold passBoundary; split <;> rfl
@[simp] theorem passBoundary_unfenced (s : State) : (passBoundary s).unfenced = s.unfenced := by unfold passBoundary; split <;> rfl
@[simp] theorem passBoundary_platform (s : State) : (passBoundary s).platform = s.platform := by unfold passBoundary; split <;> rfl
@[simp] theorem passBoundary_params (s : State) : (passBoundary s).params = s.params := by unfold passBoundary; split <;> rfl
@[simp] theorem passBoundary_boundary (s : State) : (passBoundary s).boundary = (s.boundary + 1) := by unfold passBoundary; split <;> rfl

/-! ## The `mstatus` part of `mnxti` (60 R475) -/

@[simp] theorem mnxtiStatus_x (s : State) (op : CsrOp) (v : Word) : (mnxtiStatus s op v).x = s.x := rfl
@[simp] theorem mnxtiStatus_pc (s : State) (op : CsrOp) (v : Word) : (mnxtiStatus s op v).pc = s.pc := rfl
@[simp] theorem mnxtiStatus_debugMode (s : State) (op : CsrOp) (v : Word) : (mnxtiStatus s op v).debugMode = s.debugMode := rfl
@[simp] theorem mnxtiStatus_waiting (s : State) (op : CsrOp) (v : Word) : (mnxtiStatus s op v).waiting = s.waiting := rfl
@[simp] theorem mnxtiStatus_mstatusMie (s : State) (op : CsrOp) (v : Word) : (mnxtiStatus s op v).mstatusMie = ((op.apply (mstatusRead s) v).getLsbD 3) := rfl
@[simp] theorem mnxtiStatus_mstatusMpie (s : State) (op : CsrOp) (v : Word) : (mnxtiStatus s op v).mstatusMpie = ((op.apply (mstatusRead s) v).getLsbD 7) := rfl
@[simp] theorem mnxtiStatus_mieMsie (s : State) (op : CsrOp) (v : Word) : (mnxtiStatus s op v).mieMsie = s.mieMsie := rfl
@[simp] theorem mnxtiStatus_mieMtie (s : State) (op : CsrOp) (v : Word) : (mnxtiStatus s op v).mieMtie = s.mieMtie := rfl
@[simp] theorem mnxtiStatus_mieMeie (s : State) (op : CsrOp) (v : Word) : (mnxtiStatus s op v).mieMeie = s.mieMeie := rfl
@[simp] theorem mnxtiStatus_mtvec (s : State) (op : CsrOp) (v : Word) : (mnxtiStatus s op v).mtvec = s.mtvec := rfl
@[simp] theorem mnxtiStatus_mtvt (s : State) (op : CsrOp) (v : Word) : (mnxtiStatus s op v).mtvt = s.mtvt := rfl
@[simp] theorem mnxtiStatus_mscratch (s : State) (op : CsrOp) (v : Word) : (mnxtiStatus s op v).mscratch = s.mscratch := rfl
@[simp] theorem mnxtiStatus_mepc (s : State) (op : CsrOp) (v : Word) : (mnxtiStatus s op v).mepc = s.mepc := rfl
@[simp] theorem mnxtiStatus_mcauseInterrupt (s : State) (op : CsrOp) (v : Word) : (mnxtiStatus s op v).mcauseInterrupt = s.mcauseInterrupt := rfl
@[simp] theorem mnxtiStatus_mcauseCode (s : State) (op : CsrOp) (v : Word) : (mnxtiStatus s op v).mcauseCode = s.mcauseCode := rfl
@[simp] theorem mnxtiStatus_mcauseMpil (s : State) (op : CsrOp) (v : Word) : (mnxtiStatus s op v).mcauseMpil = s.mcauseMpil := rfl
@[simp] theorem mnxtiStatus_mpilSeen (s : State) (op : CsrOp) (v : Word) : (mnxtiStatus s op v).mpilSeen = s.mpilSeen := rfl
@[simp] theorem mnxtiStatus_mcauseMinhv (s : State) (op : CsrOp) (v : Word) : (mnxtiStatus s op v).mcauseMinhv = s.mcauseMinhv := rfl
@[simp] theorem mnxtiStatus_mtval (s : State) (op : CsrOp) (v : Word) : (mnxtiStatus s op v).mtval = s.mtval := rfl
@[simp] theorem mnxtiStatus_mil (s : State) (op : CsrOp) (v : Word) : (mnxtiStatus s op v).mil = s.mil := rfl
@[simp] theorem mnxtiStatus_mcycleBase (s : State) (op : CsrOp) (v : Word) : (mnxtiStatus s op v).mcycleBase = s.mcycleBase := rfl
@[simp] theorem mnxtiStatus_minstret (s : State) (op : CsrOp) (v : Word) : (mnxtiStatus s op v).minstret = s.minstret := rfl
@[simp] theorem mnxtiStatus_tselect (s : State) (op : CsrOp) (v : Word) : (mnxtiStatus s op v).tselect = s.tselect := rfl
@[simp] theorem mnxtiStatus_triggers (s : State) (op : CsrOp) (v : Word) : (mnxtiStatus s op v).triggers = s.triggers := rfl
@[simp] theorem mnxtiStatus_dcsrEbreakm (s : State) (op : CsrOp) (v : Word) : (mnxtiStatus s op v).dcsrEbreakm = s.dcsrEbreakm := rfl
@[simp] theorem mnxtiStatus_dcsrStep (s : State) (op : CsrOp) (v : Word) : (mnxtiStatus s op v).dcsrStep = s.dcsrStep := rfl
@[simp] theorem mnxtiStatus_dpc (s : State) (op : CsrOp) (v : Word) : (mnxtiStatus s op v).dpc = s.dpc := rfl
@[simp] theorem mnxtiStatus_dscratch (s : State) (op : CsrOp) (v : Word) : (mnxtiStatus s op v).dscratch = s.dscratch := rfl
@[simp] theorem mnxtiStatus_clic (s : State) (op : CsrOp) (v : Word) : (mnxtiStatus s op v).clic = s.clic := rfl
@[simp] theorem mnxtiStatus_clicOld (s : State) (op : CsrOp) (v : Word) : (mnxtiStatus s op v).clicOld = s.clicOld := rfl
@[simp] theorem mnxtiStatus_mtime (s : State) (op : CsrOp) (v : Word) : (mnxtiStatus s op v).mtime = s.mtime := rfl
@[simp] theorem mnxtiStatus_meipWire (s : State) (op : CsrOp) (v : Word) : (mnxtiStatus s op v).meipWire = s.meipWire := rfl
@[simp] theorem mnxtiStatus_lintWires (s : State) (op : CsrOp) (v : Word) : (mnxtiStatus s op v).lintWires = s.lintWires := rfl
@[simp] theorem mnxtiStatus_inputs (s : State) (op : CsrOp) (v : Word) : (mnxtiStatus s op v).inputs = s.inputs := rfl
@[simp] theorem mnxtiStatus_mem (s : State) (op : CsrOp) (v : Word) : (mnxtiStatus s op v).mem = s.mem := rfl
@[simp] theorem mnxtiStatus_unfenced (s : State) (op : CsrOp) (v : Word) : (mnxtiStatus s op v).unfenced = s.unfenced := rfl
@[simp] theorem mnxtiStatus_platform (s : State) (op : CsrOp) (v : Word) : (mnxtiStatus s op v).platform = s.platform := rfl
@[simp] theorem mnxtiStatus_params (s : State) (op : CsrOp) (v : Word) : (mnxtiStatus s op v).params = s.params := rfl
@[simp] theorem mnxtiStatus_boundary (s : State) (op : CsrOp) (v : Word) : (mnxtiStatus s op v).boundary = s.boundary := rfl

/-! ## The commit of `mnxti` (60 R475) -/

@[simp] theorem mnxtiCommit_x (s : State) (w : Nat) : (mnxtiCommit s w).x = s.x := rfl
@[simp] theorem mnxtiCommit_pc (s : State) (w : Nat) : (mnxtiCommit s w).pc = s.pc := rfl
@[simp] theorem mnxtiCommit_debugMode (s : State) (w : Nat) : (mnxtiCommit s w).debugMode = s.debugMode := rfl
@[simp] theorem mnxtiCommit_waiting (s : State) (w : Nat) : (mnxtiCommit s w).waiting = s.waiting := rfl
@[simp] theorem mnxtiCommit_mstatusMie (s : State) (w : Nat) : (mnxtiCommit s w).mstatusMie = s.mstatusMie := rfl
@[simp] theorem mnxtiCommit_mstatusMpie (s : State) (w : Nat) : (mnxtiCommit s w).mstatusMpie = s.mstatusMpie := rfl
@[simp] theorem mnxtiCommit_mieMsie (s : State) (w : Nat) : (mnxtiCommit s w).mieMsie = s.mieMsie := rfl
@[simp] theorem mnxtiCommit_mieMtie (s : State) (w : Nat) : (mnxtiCommit s w).mieMtie = s.mieMtie := rfl
@[simp] theorem mnxtiCommit_mieMeie (s : State) (w : Nat) : (mnxtiCommit s w).mieMeie = s.mieMeie := rfl
@[simp] theorem mnxtiCommit_mtvec (s : State) (w : Nat) : (mnxtiCommit s w).mtvec = s.mtvec := rfl
@[simp] theorem mnxtiCommit_mtvt (s : State) (w : Nat) : (mnxtiCommit s w).mtvt = s.mtvt := rfl
@[simp] theorem mnxtiCommit_mscratch (s : State) (w : Nat) : (mnxtiCommit s w).mscratch = s.mscratch := rfl
@[simp] theorem mnxtiCommit_mepc (s : State) (w : Nat) : (mnxtiCommit s w).mepc = s.mepc := rfl
@[simp] theorem mnxtiCommit_mcauseInterrupt (s : State) (w : Nat) : (mnxtiCommit s w).mcauseInterrupt = true := rfl
@[simp] theorem mnxtiCommit_mcauseCode (s : State) (w : Nat) : (mnxtiCommit s w).mcauseCode = (BitVec.ofNat 10 w) := rfl
@[simp] theorem mnxtiCommit_mcauseMpil (s : State) (w : Nat) : (mnxtiCommit s w).mcauseMpil = s.mcauseMpil := rfl
@[simp] theorem mnxtiCommit_mpilSeen (s : State) (w : Nat) : (mnxtiCommit s w).mpilSeen = s.mpilSeen := rfl
@[simp] theorem mnxtiCommit_mcauseMinhv (s : State) (w : Nat) : (mnxtiCommit s w).mcauseMinhv = s.mcauseMinhv := rfl
@[simp] theorem mnxtiCommit_mtval (s : State) (w : Nat) : (mnxtiCommit s w).mtval = s.mtval := rfl
@[simp] theorem mnxtiCommit_mil (s : State) (w : Nat) : (mnxtiCommit s w).mil = (levelSeen s w) := rfl
@[simp] theorem mnxtiCommit_mcycleBase (s : State) (w : Nat) : (mnxtiCommit s w).mcycleBase = s.mcycleBase := rfl
@[simp] theorem mnxtiCommit_minstret (s : State) (w : Nat) : (mnxtiCommit s w).minstret = s.minstret := rfl
@[simp] theorem mnxtiCommit_tselect (s : State) (w : Nat) : (mnxtiCommit s w).tselect = s.tselect := rfl
@[simp] theorem mnxtiCommit_triggers (s : State) (w : Nat) : (mnxtiCommit s w).triggers = s.triggers := rfl
@[simp] theorem mnxtiCommit_dcsrEbreakm (s : State) (w : Nat) : (mnxtiCommit s w).dcsrEbreakm = s.dcsrEbreakm := rfl
@[simp] theorem mnxtiCommit_dcsrStep (s : State) (w : Nat) : (mnxtiCommit s w).dcsrStep = s.dcsrStep := rfl
@[simp] theorem mnxtiCommit_dpc (s : State) (w : Nat) : (mnxtiCommit s w).dpc = s.dpc := rfl
@[simp] theorem mnxtiCommit_dscratch (s : State) (w : Nat) : (mnxtiCommit s w).dscratch = s.dscratch := rfl
@[simp] theorem mnxtiCommit_clic (s : State) (w : Nat) : (mnxtiCommit s w).clic = s.clic := rfl
@[simp] theorem mnxtiCommit_clicOld (s : State) (w : Nat) : (mnxtiCommit s w).clicOld = s.clicOld := rfl
@[simp] theorem mnxtiCommit_mtime (s : State) (w : Nat) : (mnxtiCommit s w).mtime = s.mtime := rfl
@[simp] theorem mnxtiCommit_meipWire (s : State) (w : Nat) : (mnxtiCommit s w).meipWire = s.meipWire := rfl
@[simp] theorem mnxtiCommit_lintWires (s : State) (w : Nat) : (mnxtiCommit s w).lintWires = s.lintWires := rfl
@[simp] theorem mnxtiCommit_inputs (s : State) (w : Nat) : (mnxtiCommit s w).inputs = s.inputs := rfl
@[simp] theorem mnxtiCommit_mem (s : State) (w : Nat) : (mnxtiCommit s w).mem = s.mem := rfl
@[simp] theorem mnxtiCommit_unfenced (s : State) (w : Nat) : (mnxtiCommit s w).unfenced = s.unfenced := rfl
@[simp] theorem mnxtiCommit_platform (s : State) (w : Nat) : (mnxtiCommit s w).platform = s.platform := rfl
@[simp] theorem mnxtiCommit_params (s : State) (w : Nat) : (mnxtiCommit s w).params = s.params := rfl
@[simp] theorem mnxtiCommit_boundary (s : State) (w : Nat) : (mnxtiCommit s w).boundary = s.boundary := rfl

/-! ## Writes of one CLIC byte: only the CLIC registers and `mtime` (61 R503 to R514) -/

@[simp] theorem clicWriteSlot_x (s : State) (b : Byte) (c : ClicSlot) : (clicWriteSlot s b c).x = s.x := by
  cases c <;> simp only [clicWriteSlot] <;> (repeat' split) <;> rfl
@[simp] theorem clicWriteSlot_pc (s : State) (b : Byte) (c : ClicSlot) : (clicWriteSlot s b c).pc = s.pc := by
  cases c <;> simp only [clicWriteSlot] <;> (repeat' split) <;> rfl
@[simp] theorem clicWriteSlot_debugMode (s : State) (b : Byte) (c : ClicSlot) : (clicWriteSlot s b c).debugMode = s.debugMode := by
  cases c <;> simp only [clicWriteSlot] <;> (repeat' split) <;> rfl
@[simp] theorem clicWriteSlot_waiting (s : State) (b : Byte) (c : ClicSlot) : (clicWriteSlot s b c).waiting = s.waiting := by
  cases c <;> simp only [clicWriteSlot] <;> (repeat' split) <;> rfl
@[simp] theorem clicWriteSlot_mstatusMie (s : State) (b : Byte) (c : ClicSlot) : (clicWriteSlot s b c).mstatusMie = s.mstatusMie := by
  cases c <;> simp only [clicWriteSlot] <;> (repeat' split) <;> rfl
@[simp] theorem clicWriteSlot_mstatusMpie (s : State) (b : Byte) (c : ClicSlot) : (clicWriteSlot s b c).mstatusMpie = s.mstatusMpie := by
  cases c <;> simp only [clicWriteSlot] <;> (repeat' split) <;> rfl
@[simp] theorem clicWriteSlot_mieMsie (s : State) (b : Byte) (c : ClicSlot) : (clicWriteSlot s b c).mieMsie = s.mieMsie := by
  cases c <;> simp only [clicWriteSlot] <;> (repeat' split) <;> rfl
@[simp] theorem clicWriteSlot_mieMtie (s : State) (b : Byte) (c : ClicSlot) : (clicWriteSlot s b c).mieMtie = s.mieMtie := by
  cases c <;> simp only [clicWriteSlot] <;> (repeat' split) <;> rfl
@[simp] theorem clicWriteSlot_mieMeie (s : State) (b : Byte) (c : ClicSlot) : (clicWriteSlot s b c).mieMeie = s.mieMeie := by
  cases c <;> simp only [clicWriteSlot] <;> (repeat' split) <;> rfl
@[simp] theorem clicWriteSlot_mtvec (s : State) (b : Byte) (c : ClicSlot) : (clicWriteSlot s b c).mtvec = s.mtvec := by
  cases c <;> simp only [clicWriteSlot] <;> (repeat' split) <;> rfl
@[simp] theorem clicWriteSlot_mtvt (s : State) (b : Byte) (c : ClicSlot) : (clicWriteSlot s b c).mtvt = s.mtvt := by
  cases c <;> simp only [clicWriteSlot] <;> (repeat' split) <;> rfl
@[simp] theorem clicWriteSlot_mscratch (s : State) (b : Byte) (c : ClicSlot) : (clicWriteSlot s b c).mscratch = s.mscratch := by
  cases c <;> simp only [clicWriteSlot] <;> (repeat' split) <;> rfl
@[simp] theorem clicWriteSlot_mepc (s : State) (b : Byte) (c : ClicSlot) : (clicWriteSlot s b c).mepc = s.mepc := by
  cases c <;> simp only [clicWriteSlot] <;> (repeat' split) <;> rfl
@[simp] theorem clicWriteSlot_mcauseInterrupt (s : State) (b : Byte) (c : ClicSlot) : (clicWriteSlot s b c).mcauseInterrupt = s.mcauseInterrupt := by
  cases c <;> simp only [clicWriteSlot] <;> (repeat' split) <;> rfl
@[simp] theorem clicWriteSlot_mcauseCode (s : State) (b : Byte) (c : ClicSlot) : (clicWriteSlot s b c).mcauseCode = s.mcauseCode := by
  cases c <;> simp only [clicWriteSlot] <;> (repeat' split) <;> rfl
@[simp] theorem clicWriteSlot_mcauseMpil (s : State) (b : Byte) (c : ClicSlot) : (clicWriteSlot s b c).mcauseMpil = s.mcauseMpil := by
  cases c <;> simp only [clicWriteSlot] <;> (repeat' split) <;> rfl
@[simp] theorem clicWriteSlot_mpilSeen (s : State) (b : Byte) (c : ClicSlot) : (clicWriteSlot s b c).mpilSeen = s.mpilSeen := by
  cases c <;> simp only [clicWriteSlot] <;> (repeat' split) <;> rfl
@[simp] theorem clicWriteSlot_mcauseMinhv (s : State) (b : Byte) (c : ClicSlot) : (clicWriteSlot s b c).mcauseMinhv = s.mcauseMinhv := by
  cases c <;> simp only [clicWriteSlot] <;> (repeat' split) <;> rfl
@[simp] theorem clicWriteSlot_mtval (s : State) (b : Byte) (c : ClicSlot) : (clicWriteSlot s b c).mtval = s.mtval := by
  cases c <;> simp only [clicWriteSlot] <;> (repeat' split) <;> rfl
@[simp] theorem clicWriteSlot_mil (s : State) (b : Byte) (c : ClicSlot) : (clicWriteSlot s b c).mil = s.mil := by
  cases c <;> simp only [clicWriteSlot] <;> (repeat' split) <;> rfl
@[simp] theorem clicWriteSlot_mcycleBase (s : State) (b : Byte) (c : ClicSlot) : (clicWriteSlot s b c).mcycleBase = s.mcycleBase := by
  cases c <;> simp only [clicWriteSlot] <;> (repeat' split) <;> rfl
@[simp] theorem clicWriteSlot_minstret (s : State) (b : Byte) (c : ClicSlot) : (clicWriteSlot s b c).minstret = s.minstret := by
  cases c <;> simp only [clicWriteSlot] <;> (repeat' split) <;> rfl
@[simp] theorem clicWriteSlot_tselect (s : State) (b : Byte) (c : ClicSlot) : (clicWriteSlot s b c).tselect = s.tselect := by
  cases c <;> simp only [clicWriteSlot] <;> (repeat' split) <;> rfl
@[simp] theorem clicWriteSlot_triggers (s : State) (b : Byte) (c : ClicSlot) : (clicWriteSlot s b c).triggers = s.triggers := by
  cases c <;> simp only [clicWriteSlot] <;> (repeat' split) <;> rfl
@[simp] theorem clicWriteSlot_dcsrEbreakm (s : State) (b : Byte) (c : ClicSlot) : (clicWriteSlot s b c).dcsrEbreakm = s.dcsrEbreakm := by
  cases c <;> simp only [clicWriteSlot] <;> (repeat' split) <;> rfl
@[simp] theorem clicWriteSlot_dcsrStep (s : State) (b : Byte) (c : ClicSlot) : (clicWriteSlot s b c).dcsrStep = s.dcsrStep := by
  cases c <;> simp only [clicWriteSlot] <;> (repeat' split) <;> rfl
@[simp] theorem clicWriteSlot_dpc (s : State) (b : Byte) (c : ClicSlot) : (clicWriteSlot s b c).dpc = s.dpc := by
  cases c <;> simp only [clicWriteSlot] <;> (repeat' split) <;> rfl
@[simp] theorem clicWriteSlot_dscratch (s : State) (b : Byte) (c : ClicSlot) : (clicWriteSlot s b c).dscratch = s.dscratch := by
  cases c <;> simp only [clicWriteSlot] <;> (repeat' split) <;> rfl
@[simp] theorem clicWriteSlot_clicOld (s : State) (b : Byte) (c : ClicSlot) : (clicWriteSlot s b c).clicOld = s.clicOld := by
  cases c <;> simp only [clicWriteSlot] <;> (repeat' split) <;> rfl
@[simp] theorem clicWriteSlot_meipWire (s : State) (b : Byte) (c : ClicSlot) : (clicWriteSlot s b c).meipWire = s.meipWire := by
  cases c <;> simp only [clicWriteSlot] <;> (repeat' split) <;> rfl
@[simp] theorem clicWriteSlot_lintWires (s : State) (b : Byte) (c : ClicSlot) : (clicWriteSlot s b c).lintWires = s.lintWires := by
  cases c <;> simp only [clicWriteSlot] <;> (repeat' split) <;> rfl
@[simp] theorem clicWriteSlot_inputs (s : State) (b : Byte) (c : ClicSlot) : (clicWriteSlot s b c).inputs = s.inputs := by
  cases c <;> simp only [clicWriteSlot] <;> (repeat' split) <;> rfl
@[simp] theorem clicWriteSlot_mem (s : State) (b : Byte) (c : ClicSlot) : (clicWriteSlot s b c).mem = s.mem := by
  cases c <;> simp only [clicWriteSlot] <;> (repeat' split) <;> rfl
@[simp] theorem clicWriteSlot_unfenced (s : State) (b : Byte) (c : ClicSlot) : (clicWriteSlot s b c).unfenced = s.unfenced := by
  cases c <;> simp only [clicWriteSlot] <;> (repeat' split) <;> rfl
@[simp] theorem clicWriteSlot_platform (s : State) (b : Byte) (c : ClicSlot) : (clicWriteSlot s b c).platform = s.platform := by
  cases c <;> simp only [clicWriteSlot] <;> (repeat' split) <;> rfl
@[simp] theorem clicWriteSlot_params (s : State) (b : Byte) (c : ClicSlot) : (clicWriteSlot s b c).params = s.params := by
  cases c <;> simp only [clicWriteSlot] <;> (repeat' split) <;> rfl
@[simp] theorem clicWriteSlot_boundary (s : State) (b : Byte) (c : ClicSlot) : (clicWriteSlot s b c).boundary = s.boundary := by
  cases c <;> simp only [clicWriteSlot] <;> (repeat' split) <;> rfl

end Sys2Proof.Machine
end

