-- ==== Sys2Proof/Laws/Registers.lean ====
section
/-! SUPPORT. The laws of the general registers (spec/10_state.md R31, R33). -/

namespace Sys2Proof.Machine

@[simp] theorem readReg_zero (s : State) : readReg s 0#5 = 0#32 := rfl

/-- A write to a register other than `x0` is read back. -/
theorem readReg_writeReg_self (s : State) (r : Reg) (v : Word) (h : r ≠ 0#5) :
    readReg (writeReg s r v) r = v := by
  simp only [readReg, writeReg, h, if_false]
  exact Vector.getElem_set_self r.isLt

/-- A write leaves every other register alone. -/
theorem readReg_writeReg_other (s : State) (r k : Reg) (v : Word) (h : k ≠ r) :
    readReg (writeReg s r v) k = readReg s k := by
  unfold readReg
  split
  · rfl
  · unfold writeReg
    split
    · rfl
    · exact Vector.getElem_set_ne r.isLt k.isLt fun e => h (BitVec.eq_of_toNat_eq e.symm)

/-- The slot of `x0` is never written. -/
theorem writeReg_x_zero (s : State) (r : Reg) (v : Word) : (writeReg s r v).x.get 0 = s.x.get 0 := by
  unfold writeReg
  split
  · rfl
  · rename_i h
    exact Vector.getElem_set_ne r.isLt (by decide) fun e => h (BitVec.eq_of_toNat_eq (by simpa using e))

/-- Reading a register depends on the registers only. -/
theorem readReg_congr {s t : State} (h : s.x = t.x) (r : Reg) : readReg s r = readReg t r := by
  simp [readReg, h]

@[simp] theorem readReg_retire (s : State) (next : Word) (r : Reg) :
    readReg (retire s next) r = readReg s r := rfl

@[simp] theorem readReg_closeClicWindow (s : State) (a : Word) (r : Reg) :
    readReg (closeClicWindow s a) r = readReg s r := readReg_congr (by simp) r

end Sys2Proof.Machine
end

