-- ==== Sys2Proof/Laws/Access.lean ====
section
/-! SUPPORT. What the shared operations over accesses and traps can do, said once for each
(spec/20_memory.md R150 to R152; spec/60_exceptions.md R440). -/

namespace Sys2Proof.Machine

@[simp] theorem bind_ok {α β : Type} (v : α) (f : α → Access β) : (Access.ok v).bind f = f v := rfl
@[simp] theorem bind_raise {α β : Type} (c : ExceptionCause) (t : Word) (f : α → Access β) :
    (Access.raise c t).bind f = .raise c t := rfl
@[simp] theorem bind_debug {α β : Type} (f : α → Access β) : (Access.debug).bind f = .debug := rfl
@[simp] theorem bind_refuse {α β : Type} (r : Refusal) (f : α → Access β) :
    (Access.refuse r).bind f = .refuse r := rfl

/-- An access that ends well went well in both parts. -/
theorem bind_eq_ok {α β : Type} {m : Access α} {f : α → Access β} {v : β} (h : m.bind f = .ok v) :
    ∃ u, m = .ok u ∧ f u = .ok v := by
  cases m with
  | ok u => exact ⟨u, rfl, h⟩
  | raise c t => cases h
  | debug => cases h
  | refuse r => cases h

/-- Taking an exception answers a next state exactly when `mtvec[5:2]` is 0, and this is the state. -/
theorem takeException_next {s t : State} {c : ExceptionCause} {v : Word} :
    takeException s c v = .next t ↔
      s.mtvec.extractLsb' 2 4 = 0#4 ∧ t = { saveTrap s false c.code v with pc := trapBase s } := by
  unfold takeException
  split
  · rename_i h
    constructor
    · intro e; cases e; exact ⟨h, rfl⟩
    · rintro ⟨-, rfl⟩; rfl
  · rename_i h
    constructor
    · intro e; cases e
    · rintro ⟨h', -⟩; exact absurd h' h

/-- Everything an instruction that makes accesses can end in, where it answers a next state. -/
theorem finish_next {s t : State} {m : Access State} (h : finish s m = .next t) :
    m = .ok t ∨ (∃ c v, m = .raise c v ∧ takeException s c v = .next t) ∨ (m = .debug ∧ t = enterDebug s) := by
  cases m with
  | ok u => cases h; exact .inl rfl
  | raise c v => exact .inr (.inl ⟨c, v, rfl, h⟩)
  | debug => cases h; exact .inr (.inr ⟨rfl, rfl⟩)
  | refuse r => cases h

/-- Taking an exception never faults. -/
theorem takeException_not_fault (s : State) (c : ExceptionCause) (v : Word) (f : Fault) :
    takeException s c v ≠ .fault f := by
  unfold takeException; split <;> simp

/-- An instruction that makes accesses never faults. -/
theorem finish_not_fault (s : State) (m : Access State) (f : Fault) : finish s m ≠ .fault f := by
  cases m with
  | ok u => simp [finish]
  | raise c v => exact takeException_not_fault s c v f
  | debug => simp [finish]
  | refuse r => simp [finish]

/-- Interrupt entry answers a next state only where `mtvec[5:2]` is 0, and what it leaves but the pc. -/
theorem takeInterrupt_next {s t : State} {id : Nat} (h : takeInterrupt s id = .next t) :
    s.mtvec.extractLsb' 2 4 = 0#4 ∧
      ((clicMode s = false ∧ t = { saveInterrupt s id with pc := basicTarget s id }) ∨
       (clicMode s = true ∧ hardwareVectored s id = false ∧
          t = { saveInterrupt s id with pc := trapBase s }) ∨
       (clicMode s = true ∧ hardwareVectored s id = true ∧ ∃ a, readTable s id = .ok a ∧
          t = { saveInterrupt s id with mcauseMinhv := false, pc := clearBit0 a })) := by
  unfold takeInterrupt at h
  split at h
  · rename_i hb
    refine ⟨hb, ?_⟩
    split at h
    · rename_i hc
      split at h
      · rename_i hv
        split at h
        · rename_i a ha
          cases h
          exact .inr (.inr ⟨hc, hv, a, ha, rfl⟩)
        · cases h
      · rename_i hv
        cases h
        exact .inr (.inl ⟨hc, by simpa using hv, rfl⟩)
    · rename_i hc
      cases h
      exact .inl ⟨by simpa using hc, rfl⟩
  · cases h

/-- A load that succeeds: no trigger fired, the address is aligned, and the region gave the value. -/
theorem memRead_ok {s : State} {a v : Word} {w : Size} (h : memRead s a w = .ok v) :
    triggerCheck s .load a w.bytes = .ok () ∧ aligned a w = true ∧ regionRead s a w = .ok v := by
  obtain ⟨u, hu, h⟩ := bind_eq_ok h
  split at h
  · rename_i ha; exact ⟨hu, ha, h⟩
  · cases h

/-- A store that succeeds: no trigger fired, the address is aligned, and the region took the value. -/
theorem memWrite_ok {s t : State} {a v : Word} {w : Size} (h : memWrite s a w v = .ok t) :
    triggerCheck s .store a w.bytes = .ok () ∧ aligned a w = true ∧ regionWrite s a w v = .ok t := by
  obtain ⟨u, hu, h⟩ := bind_eq_ok h
  split at h
  · rename_i ha; exact ⟨hu, ha, h⟩
  · cases h

/-- A store that the region takes goes to RAM or to the CLIC. -/
theorem regionWrite_ok {s t : State} {a v : Word} {w : Size} (h : regionWrite s a w v = .ok t) :
    (regionOf a = .sysPort ∧ backingOf s.platform a.toNat = .ram ∧ t = storeRam s a.toNat w v) ∨
    (regionOf a = .clic ∧ ∃ u, clicWrite s a.toNat (bytesOf v w.bytes) = some u ∧ t = openClicWindow s u) := by
  unfold regionWrite at h
  split at h
  · split at h <;> cases h
  · cases h
  · rename_i hr
    split at h
    · rename_i u hu; cases h; exact .inr ⟨hr, u, hu, rfl⟩
    · cases h
  · rename_i hr
    split at h
    · rename_i hb; cases h; exact .inl ⟨hr, hb, rfl⟩
    all_goals cases h

/-- The trigger check never faults; where it passes outside debug mode, no trigger fires on the address. -/
theorem triggerCheck_ok {s : State} {k : AccessKind} {a : Word} {n : Nat} (h : triggerCheck s k a n = .ok ()) :
    s.debugMode = true ∨ (firingLow s k a = [] ∧ firingAny s k a n = []) := by
  unfold triggerCheck at h
  split at h
  · rename_i hd; exact .inl hd
  · split at h
    · cases h
    · split at h
      · cases h
      · split at h
        · split at h <;> cases h
        · rename_i hl
          split at h
          · cases h
          · rename_i ha
            exact .inr ⟨by simpa using hl, by simpa using ha⟩

/-- The trigger check raises nothing but a breakpoint with the address compared, and only with MIE = 1. -/
theorem triggerCheck_raise {s : State} {k : AccessKind} {a : Word} {n : Nat} {c : ExceptionCause} {v : Word}
    (h : triggerCheck s k a n = .raise c v) : c = .breakpoint ∧ v = a ∧ s.mstatusMie = true := by
  unfold triggerCheck at h
  split at h
  · cases h
  · split at h
    · cases h
    · split at h
      · cases h
      · split at h
        · split at h
          · rename_i hm; cases h; exact ⟨rfl, rfl, hm⟩
          · cases h
        · split at h <;> cases h

/-- The trigger check enters debug mode only by a trigger whose action says so. -/
theorem triggerCheck_debug {s : State} {k : AccessKind} {a : Word} {n : Nat}
    (h : triggerCheck s k a n = .debug) : (firingLow s k a).any (·.actionDebug) = true := by
  unfold triggerCheck at h
  split at h
  · cases h
  · split at h
    · cases h
    · split at h
      · rename_i hd; exact hd
      · split at h
        · split at h <;> cases h
        · split at h <;> cases h

/-- The triggers that fire are triggers of the list. -/
theorem firing_subset (hit : Trigger → Bool) (ts : List Trigger) (lower : Bool) :
    ∀ t ∈ firing hit lower ts, t ∈ ts := by
  induction ts generalizing lower with
  | nil => simp [firing]
  | cons d ts ih =>
    intro t ht
    simp only [firing] at ht
    split at ht
    · rcases List.mem_cons.1 ht with rfl | ht
      · simp
      · exact List.mem_cons_of_mem _ (ih _ t ht)
    · exact List.mem_cons_of_mem _ (ih _ t ht)

end Sys2Proof.Machine
end

