-- ==== Sys2Proof/Laws/Fields.lean ====
section
/-! SUPPORT. Taking a field out of a word written as a concatenation of its fields. -/

namespace Sys2Proof

/-- A field inside the lower part. -/
theorem extract_append_low {n m : Nat} (x : BitVec n) (y : BitVec m) (s l : Nat) (h : s + l ≤ m) :
    (x ++ y).extractLsb' s l = y.extractLsb' s l := by
  ext i hi
  have : s + i < m := by omega
  simp [BitVec.getLsbD_append, this]

/-- A field inside the upper part. -/
theorem extract_append_high {n m : Nat} (x : BitVec n) (y : BitVec m) (s l : Nat) (h : m ≤ s) :
    (x ++ y).extractLsb' s l = x.extractLsb' (s - m) l := by
  ext i hi
  have h1 : ¬ s + i < m := by omega
  have h2 : s + i - m = s - m + i := by omega
  simp [BitVec.getLsbD_append, h1, h2]

/-- The whole word as a field. -/
theorem extract_self {n : Nat} (x : BitVec n) : x.extractLsb' 0 n = x := by
  ext i hi
  simp

/-- Two neighbouring fields put together again. -/
theorem extract_join {n : Nat} (x : BitVec n) (s l k : Nat) :
    x.extractLsb' (s + l) k ++ x.extractLsb' s l = x.extractLsb' s (k + l) := by
  ext i hi
  simp only [BitVec.getElem_append, BitVec.getElem_extractLsb']
  split
  · rfl
  · congr 1; omega

end Sys2Proof
end

