-- ==== Sys2Proof/Laws/Memory.lean ====
section
/-! SUPPORT. The laws of the memory: a read after a write, and that every operation keeps the canonical form. -/

namespace Sys2Proof.Machine

/-! ## Reading -/

theorem Memory.read_filter_self (m : List Host.Cell) (a : Nat) :
    Memory.read (m.filter (fun c => c.1 ≠ a)) a = 0#8 := by
  induction m with
  | nil => rfl
  | cons c m ih =>
    by_cases h : c.1 = a
    · simpa [List.filter_cons, h] using ih
    · simpa [List.filter_cons, h, Memory.read] using ih

theorem Memory.read_filter_other (m : List Host.Cell) (a k : Nat) (h : k ≠ a) :
    Memory.read (m.filter (fun c => c.1 ≠ a)) k = Memory.read m k := by
  induction m with
  | nil => rfl
  | cons c m ih =>
    by_cases hc : c.1 = a
    · have hk : c.1 ≠ k := fun e => h (by omega)
      rw [List.filter_cons_of_neg (by simp [hc]), ih, Memory.read, if_neg hk]
    · rw [List.filter_cons_of_pos (by simp [hc]), Memory.read, Memory.read, ih]

theorem Memory.read_insert_other (m : List Host.Cell) (a k : Nat) (b : Byte) (h : k ≠ a) :
    Memory.read (Memory.insert a b m) k = Memory.read m k := by
  have h' : a ≠ k := fun e => h e.symm
  induction m with
  | nil => simp [Memory.insert, Memory.read, h']
  | cons c m ih =>
    unfold Memory.insert
    split
    · simp [Memory.read, h']
    · simp [Memory.read, ih]

theorem Memory.read_insert_self (m : List Host.Cell) (a : Nat) (b : Byte) (h : ∀ c ∈ m, c.1 ≠ a) :
    Memory.read (Memory.insert a b m) a = b := by
  induction m with
  | nil => simp [Memory.insert, Memory.read]
  | cons c m ih =>
    have hc : c.1 ≠ a := h c (by simp)
    have hm : ∀ d ∈ m, d.1 ≠ a := fun d hd => h d (by simp [hd])
    unfold Memory.insert
    split
    · simp [Memory.read]
    · simp [Memory.read, hc, ih hm]

/-- A read after a write to the same address gives the byte written. -/
@[simp] theorem Memory.read_write_self (m : List Host.Cell) (a : Nat) (b : Byte) :
    Memory.read (Memory.write m a b) a = b := by
  unfold Memory.write
  split
  · rename_i h; subst h; exact Memory.read_filter_self m a
  · exact Memory.read_insert_self _ a b (by simp)

/-- A write leaves every other address alone. -/
theorem Memory.read_write_other (m : List Host.Cell) (a k : Nat) (b : Byte) (h : k ≠ a) :
    Memory.read (Memory.write m a b) k = Memory.read m k := by
  unfold Memory.write
  split
  · exact Memory.read_filter_other m a k h
  · rw [Memory.read_insert_other _ a k b h, Memory.read_filter_other m a k h]

/-- Storing bytes leaves every address outside them alone. -/
theorem Memory.read_writeBytes_outside (bs : List Byte) (m : List Host.Cell) (a k : Nat)
    (h : k < a ∨ a + bs.length ≤ k) : Memory.read (Memory.writeBytes m a bs) k = Memory.read m k := by
  induction bs generalizing m a with
  | nil => rfl
  | cons b bs ih =>
    simp only [List.length_cons] at h
    rw [Memory.writeBytes, ih _ _ (by omega), Memory.read_write_other _ _ _ _ (by omega)]

/-- Storing bytes puts byte `i` at offset `i`. -/
theorem Memory.read_writeBytes_inside (bs : List Byte) (m : List Host.Cell) (a i : Nat) (h : i < bs.length) :
    Memory.read (Memory.writeBytes m a bs) (a + i) = bs[i] := by
  induction bs generalizing m a i with
  | nil => simp at h
  | cons b bs ih =>
    cases i with
    | zero =>
      rw [Memory.writeBytes, Memory.read_writeBytes_outside _ _ _ _ (by omega)]
      simp
    | succ i =>
      have : a + (i + 1) = (a + 1) + i := by omega
      rw [Memory.writeBytes, this, ih _ _ _ (by simpa using h)]
      simp

@[simp] theorem Memory.readBytes_length (m : List Host.Cell) (a n : Nat) :
    (Memory.readBytes m a n).length = n := by
  induction n generalizing a with
  | zero => rfl
  | succ n ih => simp [Memory.readBytes, ih]

@[simp] theorem bytesOf_length (v : Word) (n : Nat) : (bytesOf v n).length = n := by simp [bytesOf]

/-! ## The canonical form -/

theorem Memory.insert_mem (m : List Host.Cell) (a : Nat) (b : Byte) (c : Host.Cell) :
    c ∈ Memory.insert a b m ↔ c = (a, b) ∨ c ∈ m := by
  induction m with
  | nil => simp [Memory.insert]
  | cons d m ih =>
    unfold Memory.insert
    split
    · simp
    · simp only [List.mem_cons, ih]; tauto

theorem Memory.insert_rising (m : List Host.Cell) (a : Nat) (b : Byte)
    (hm : (m.map Prod.fst).Pairwise (· < ·)) (h : ∀ c ∈ m, c.1 ≠ a) :
    ((Memory.insert a b m).map Prod.fst).Pairwise (· < ·) := by
  induction m with
  | nil => simp [Memory.insert]
  | cons d m ih =>
    have hd : d.1 ≠ a := h d (by simp)
    have hm' : ∀ c ∈ m, c.1 ≠ a := fun c hc => h c (by simp [hc])
    simp only [List.map_cons, List.pairwise_cons, List.mem_map] at hm
    unfold Memory.insert
    split
    · rename_i hlt
      simp only [List.map_cons, List.pairwise_cons, List.mem_cons, List.mem_map]
      refine ⟨?_, fun x hx => hm.1 x hx, hm.2⟩
      rintro x (rfl | hx)
      · exact hlt
      · exact lt_trans hlt (hm.1 x hx)
    · simp only [List.map_cons, List.pairwise_cons, List.mem_map]
      refine ⟨?_, ih hm.2 hm'⟩
      rintro x ⟨c, hc, rfl⟩
      rcases (Memory.insert_mem m a b c).1 hc with rfl | hc
      · simp only; omega
      · exact hm.1 _ ⟨c, hc, rfl⟩

/-- A write keeps the canonical form. -/
theorem Memory.write_wf (m : List Host.Cell) (a : Nat) (b : Byte) (h : Memory.wf m) :
    Memory.wf (Memory.write m a b) := by
  have hf : Memory.wf (m.filter (fun c => c.1 ≠ a)) :=
    ⟨h.1.sublist ((List.filter_sublist (l := m)).map Prod.fst),
      fun c hc => h.2 c (List.mem_of_mem_filter hc)⟩
  unfold Memory.write
  split
  · exact hf
  · rename_i hb
    refine ⟨Memory.insert_rising _ a b hf.1 (by simp), fun c hc => ?_⟩
    rcases (Memory.insert_mem _ a b c).1 hc with rfl | hc
    · exact hb
    · exact hf.2 c hc

/-- Storing bytes keeps the canonical form. -/
theorem Memory.writeBytes_wf (bs : List Byte) (m : List Host.Cell) (a : Nat) (h : Memory.wf m) :
    Memory.wf (Memory.writeBytes m a bs) := by
  induction bs generalizing m a with
  | nil => exact h
  | cons b bs ih => exact ih _ _ (Memory.write_wf m a b h)

/-- The cells after storing bytes are old ones or lie at the addresses stored to. -/
theorem Memory.writeBytes_mem (bs : List Byte) (m : List Host.Cell) (a : Nat) (c : Host.Cell)
    (h : c ∈ Memory.writeBytes m a bs) : c ∈ m ∨ (a ≤ c.1 ∧ c.1 < a + bs.length) := by
  induction bs generalizing m a with
  | nil => exact .inl h
  | cons b bs ih =>
    simp only [List.length_cons]
    rcases ih _ _ h with h | h
    · unfold Memory.write at h
      split at h
      · exact .inl (List.mem_of_mem_filter h)
      · rcases (Memory.insert_mem _ a b c).1 h with rfl | h
        · exact .inr (by simp)
        · exact .inl (List.mem_of_mem_filter h)
    · exact .inr (by omega)

/-- The memory after reset is in canonical form. -/
theorem Memory.reset_wf : Memory.wf State.reset.mem := by decide

end Sys2Proof.Machine
end

