-- ==== Sys2Proof/Laws/Outcomes.lean ====
section
/-! SUPPORT. What the shared ends of the instructions leave, in the terms of Sys2Proof/Safety.lean: one lemma for
each, which says everything the operation does. -/

namespace Sys2Proof.Machine

theorem SameMemory.rfl' (s t : State) (h : t.mem = s.mem) : SameMemory s t := fun a => by rw [h]

/-- A state whose registers are those after a register write. -/
theorem writesReg_of_x {s t : State} {rd : Reg} {v : Word} {P : Word → Prop}
    (hx : t.x = (writeReg s rd v).x) (hP : P v) : WritesReg s t rd P := by
  refine ⟨fun h => ?_, fun k hk => ?_, ?_⟩
  · rw [readReg_congr hx, readReg_writeReg_self s rd v h]; exact hP
  · rw [readReg_congr hx, readReg_writeReg_other s rd k v hk]
  · rw [hx, writeReg_x_zero]

/-- Retiring after a register write. -/
theorem onlyRegisters_retire_writeReg (s : State) (rd : Reg) (v next : Word) :
    OnlyRegisters s (retire (writeReg s rd v) next) := by
  refine ⟨?_, SameMemory.rfl' _ _ (by simp)⟩
  unfold retire writeReg
  split <;> rfl

/-- The end of the instructions that compute a register. -/
theorem writeAndRetire_computed {s : State} {rd : Reg} {v len : Word} {P : Word → Prop} (hP : P v) :
    ∃ t, writeAndRetire s rd v len = .next t ∧ Computed s t rd len P :=
  ⟨_, rfl, writesReg_of_x rfl hP, rfl, onlyRegisters_retire_writeReg s rd v _⟩

/-- The end of the jumps. -/
theorem jumpAndLink_jumped (s : State) (rd : Reg) (target len : Word) :
    ∃ t, jumpAndLink s rd target len = .next t ∧ Jumped s t rd len target :=
  ⟨_, rfl, writesReg_of_x rfl rfl, rfl, onlyRegisters_retire_writeReg s rd _ _⟩

/-- Retiring alone. -/
theorem retire_wentTo (s : State) (next : Word) : WentTo s (retire s next) next :=
  ⟨rfl, rfl, rfl, SameMemory.rfl' _ _ rfl⟩

/-- The end of the branches. -/
theorem branch_wentTo (s : State) (c : Bool) (offset len : Word) :
    ∃ t, branch s c offset len = .next t ∧ WentTo s t (if c then s.pc + offset else s.pc + len) :=
  ⟨_, rfl, retire_wentTo s _⟩

/-- A register write that changes nothing: to `x0`, or of the value the register holds. -/
theorem writeReg_same (s : State) (rd : Reg) (v : Word) (h : rd ≠ 0#5 → v = readReg s rd) : writeReg s rd v = s := by
  unfold writeReg
  split
  · rfl
  · rename_i hr
    have : v = s.x[rd.toNat] := by
      have := h hr
      simp only [readReg, hr, if_false] at this
      exact this
    subst this
    simp

/-- The state after taking an exception. -/
theorem takeException_entered {s : State} (h : HandlerAligned s) (c : ExceptionCause) (tval : Word) :
    ∃ t, takeException s c tval = .next t ∧ ExceptionEntered s t c.code tval := by
  refine ⟨_, if_pos h, ?_⟩
  constructor <;> first | rfl | exact SameMemory.rfl' _ _ rfl

/-- The illegal-instruction exception. -/
theorem takeIllegal_entered {s : State} (h : HandlerAligned s) (bits : Word) :
    ∃ t tval, takeIllegal s bits = .next t ∧ (tval = 0#32 ∨ tval = bits) ∧ ExceptionEntered s t 2#10 tval := by
  obtain ⟨t, ht, he⟩ := takeException_entered h .illegalInstruction (illegalTval bits)
  refine ⟨t, _, ht, ?_, he⟩
  unfold illegalTval
  split
  · exact .inr rfl
  · exact .inl rfl

/-! ## Interrupt entry -/

theorem saveInterrupt_entered {s t : State} {id : Nat} (hid : id < 1024)
    (h : t = { saveInterrupt s id with pc := t.pc } ∨
      t = { saveInterrupt s id with mcauseMinhv := false, pc := t.pc }) : InterruptEntered s t id := by
  have hc : (BitVec.ofNat 10 id).toNat = id := by simp; omega
  rcases h with h | h
  · constructor
    case minhv => rw [h]; exact .inl rfl
    case code => rw [h]; exact hc
    case memory => rw [h]; exact SameMemory.rfl' _ _ rfl
    all_goals rw [h]; rfl
  · constructor
    case minhv => rw [h]; exact .inr rfl
    case code => rw [h]; exact hc
    case memory => rw [h]; exact SameMemory.rfl' _ _ rfl
    all_goals rw [h]; rfl

/-! ## Accesses -/

/-- Where no trigger is enabled for the kind of access, the trigger check passes. -/
theorem triggerCheck_quiet {s : State} {k : AccessKind} (h : NoTrigger s k) (a : Word) (n : Nat) :
    triggerCheck s k a n = .ok () := by
  have hq : ∀ t ∈ s.triggers.toList, t.enabledFor k = false := by
    intro t ht
    obtain ⟨i, hi, rfl⟩ := List.mem_iff_getElem.1 ht
    have h4 : i < 4 := by simpa using hi
    have := h ⟨i, h4⟩
    simpa [Vector.get] using this
  have hf : ∀ (hit : Trigger → Bool) (l : Bool) (ts : List Trigger), (∀ t ∈ ts, hit t = false) →
      firing hit l ts = [] := by
    intro hit l ts
    induction ts generalizing l with
    | nil => intro _; rfl
    | cons d ts ih =>
      intro hts
      simp only [firing]
      rw [if_neg (by simp [hts d (by simp)])]
      exact ih _ fun t ht => hts t (by simp [ht])
  have h1 : firingLow s k a = [] := hf _ _ _ fun t ht => by simp [hq t ht]
  have h2 : firingAny s k a n = [] := hf _ _ _ fun t ht => by simp [hq t ht]
  have h3 : s.triggers.toList.any (fun t => t.enabledFor k && t.unsupportedRange) = false := by
    rw [List.any_eq_false]; intro t ht; simp [hq t ht]
  unfold triggerCheck
  simp [h1, h2, h3]

theorem regionOf_inPort {a : Word} (h : InPort a) : regionOf a = .sysPort := by
  unfold regionOf; unfold InPort at h
  rw [if_neg (by omega), if_neg (by omega), if_pos (by omega)]

theorem regionOf_inClic {a : Word} (h : InClic a) : regionOf a = .clic := by
  unfold regionOf; unfold InClic at h
  rw [if_neg (by omega), if_pos (by omega)]

theorem regionOf_inReserved {a : Word} (h : InReserved a) : regionOf a = .reserved := by
  unfold regionOf; unfold InReserved at h
  rw [if_neg (by omega), if_neg (by omega), if_neg (by omega)]

theorem regionOf_inDebug {a : Word} (h : InDebugRegion a) : regionOf a = .debug := by
  unfold regionOf; unfold InDebugRegion at h
  rw [if_pos (by omega)]

/-- An aligned read where RAM or ROM answers. -/
theorem memRead_port {s : State} {a : Word} {w : Size} (hq : NoTrigger s .load) (ha : a.toNat % w.bytes = 0)
    (hr : ReadablePort s a) : memRead s a w = .ok (ofBytes (Memory.readBytes s.mem a.toNat w.bytes)) := by
  unfold memRead
  rw [triggerCheck_quiet hq, bind_ok, if_pos (by simp [aligned, ha])]
  unfold regionRead
  rw [regionOf_inPort hr.1]
  rcases hr.2 with h | h <;> simp [h]

/-- A misaligned read. -/
theorem memRead_misaligned {s : State} {a : Word} {w : Size} (hq : NoTrigger s .load)
    (ha : a.toNat % w.bytes ≠ 0) : memRead s a w = .raise .loadAddressMisaligned a := by
  unfold memRead
  rw [triggerCheck_quiet hq, bind_ok, if_neg (by simp [aligned, ha])]

/-- An aligned read that faults. -/
theorem memRead_faults {s : State} {a : Word} {w : Size} (hq : NoTrigger s .load) (ha : a.toNat % w.bytes = 0)
    (hf : LoadFaults s a) : memRead s a w = .raise .loadAccessFault a := by
  unfold memRead
  rw [triggerCheck_quiet hq, bind_ok, if_pos (by simp [aligned, ha])]
  unfold regionRead
  rcases hf with h | ⟨h, hd⟩ | ⟨h, hb⟩
  · rw [regionOf_inReserved h]
  · rw [regionOf_inDebug h]; simp [hd]
  · rw [regionOf_inPort h]
    rcases hb with hb | hb <;> simp [hb]

/-- An aligned write where RAM answers. -/
theorem memWrite_port {s : State} {a v : Word} {w : Size} (hq : NoTrigger s .store) (ha : a.toNat % w.bytes = 0)
    (hr : WritablePort s a) : memWrite s a w v = .ok (storeRam s a.toNat w v) := by
  unfold memWrite
  rw [triggerCheck_quiet hq, bind_ok, if_pos (by simp [aligned, ha])]
  unfold regionWrite
  rw [regionOf_inPort hr.1]
  simp [hr.2]

/-- A misaligned write. -/
theorem memWrite_misaligned {s : State} {a v : Word} {w : Size} (hq : NoTrigger s .store)
    (ha : a.toNat % w.bytes ≠ 0) : memWrite s a w v = .raise .storeAddressMisaligned a := by
  unfold memWrite
  rw [triggerCheck_quiet hq, bind_ok, if_neg (by simp [aligned, ha])]

/-- An aligned write that faults. -/
theorem memWrite_faults {s : State} {a v : Word} {w : Size} (hq : NoTrigger s .store) (ha : a.toNat % w.bytes = 0)
    (hf : StoreFaults s a) : memWrite s a w v = .raise .storeAccessFault a := by
  unfold memWrite
  rw [triggerCheck_quiet hq, bind_ok, if_pos (by simp [aligned, ha])]
  unfold regionWrite
  rcases hf with h | ⟨h, hd⟩ | ⟨h, hb⟩
  · rw [regionOf_inReserved h]
  · rw [regionOf_inDebug h]; simp [hd]
  · rw [regionOf_inPort h]; simp [hb]

/-- A load where RAM or ROM answers. -/
theorem loadTo_port {s : State} {a len : Word} {w : Size} {ext : Word → Word} {rd : Reg} {P : Word → Prop}
    (hq : NoTrigger s .load) (ha : a.toNat % w.bytes = 0) (hr : ReadablePort s a)
    (hP : P (ext (ofBytes (Memory.readBytes s.mem a.toNat w.bytes)))) :
    ∃ t, loadTo s rd a w ext len = .next t ∧ Computed s t rd len P := by
  have hc : closeClicWindow s a = s := by
    unfold closeClicWindow; rw [regionOf_inPort hr.1]; rfl
  refine ⟨retire (writeReg s rd _) (s.pc + len), ?_, writesReg_of_x rfl hP, rfl,
    onlyRegisters_retire_writeReg s rd _ _⟩
  unfold loadTo
  rw [memRead_port hq ha hr, bind_ok, hc]
  rfl

/-- A load that raises. -/
theorem loadTo_raises {s : State} {a len : Word} {w : Size} {ext : Word → Word} {rd : Reg} {c : ExceptionCause}
    {tval : Word} (hh : HandlerAligned s) (h : memRead s a w = .raise c tval) :
    ∃ t, loadTo s rd a w ext len = .next t ∧ ExceptionEntered s t c.code tval := by
  unfold loadTo
  rw [h]
  exact takeException_entered hh c tval

/-- A store where RAM answers. -/
theorem storeFrom_port {s : State} {a v len : Word} {w : Size} (hq : NoTrigger s .store)
    (ha : a.toNat % w.bytes = 0) (hr : WritablePort s a) :
    ∃ t, storeFrom s a w v len = .next t ∧ Stored s t a (bytesOf v w.bytes) len := by
  refine ⟨retire (storeRam s a.toNat w v) (s.pc + len), ?_, ?_, ?_, ?_, rfl⟩
  · unfold storeFrom
    rw [memWrite_port hq ha hr]
    rfl
  · intro j hj
    exact Memory.read_writeBytes_inside _ _ _ _ hj
  · intro k hk
    exact Memory.read_writeBytes_outside _ _ _ _ hk
  · simp [storeRam]

/-- A store that raises. -/
theorem storeFrom_raises {s : State} {a v len : Word} {w : Size} {c : ExceptionCause} {tval : Word}
    (hh : HandlerAligned s) (h : memWrite s a w v = .raise c tval) :
    ∃ t, storeFrom s a w v len = .next t ∧ ExceptionEntered s t c.code tval := by
  unfold storeFrom
  rw [h]
  exact takeException_entered hh c tval

/-! ## CSR instructions -/

/-- A CSR instruction that passes the checks and whose write, if any, has a meaning. -/
theorem csrInstruction_access {s u : State} {i : CsrAccess} {c : Csr} (hc : csrCheck s i.csr i.writes = .access c)
    (hm : c ≠ .mnxti) (hu : csrUpdate s i c = .ok u) :
    csrInstruction s i = .next (csrRetire (writeReg u i.rd (csrRead s c)) i c (s.pc + 4#32)) := by
  unfold csrInstruction
  simp [hc, hm, hu]

/-- A CSR instruction that fails the checks. -/
theorem csrInstruction_illegal {s : State} {i : CsrAccess} (hc : csrCheck s i.csr i.writes = .illegal) :
    csrInstruction s i = takeIllegal s i.bits := by
  unfold csrInstruction
  simp [hc]

/-- The read part of a CSR instruction does nothing, or records that the image of the saved level has been read:
of `mcause`, in CLIC mode, with a legal cause. -/
theorem csrReadPart_ok {s t : State} {i : CsrAccess} {c : Csr} (h : csrReadPart s i c = .ok t) :
    t = s ∨ (c = .mcause ∧ i.reads = true ∧ causeLegal s = true ∧ clicMode s = true ∧
      t = { s with mpilSeen := s.mpilSeen ||| seenBit s.mcauseMpil }) := by
  unfold csrReadPart at h
  split at h
  · rename_i hc
    unfold mcauseReadPart at h
    split at h
    · rename_i hl
      cases h
      split
      · rename_i hm; exact .inr ⟨hc.1, hc.2, hl, hm, rfl⟩
      · exact .inl rfl
    · cases h
  · cases h; exact .inl rfl

/-- The read part does nothing where the instruction does not read `mcause`. -/
theorem csrReadPart_other {s : State} {i : CsrAccess} {c : Csr} (h : ¬ (c = .mcause ∧ i.reads = true)) :
    csrReadPart s i c = .ok s := if_neg h

/-- The read and the write part together. -/
theorem csrUpdate_ok {s u : State} {i : CsrAccess} {c : Csr} (h : csrUpdate s i c = .ok u) :
    ∃ t, csrReadPart s i c = .ok t ∧
      ((i.writes = false ∧ u = t) ∨
        (i.writes = true ∧ csrWrite t (i.op.apply (csrRead s c) i.operand) c = .ok u)) := by
  unfold csrUpdate at h
  split at h
  · cases h
  · rename_i t ht
    refine ⟨t, ht, ?_⟩
    split at h
    · rename_i hw; exact .inr ⟨hw, h⟩
    · rename_i hw; cases h; exact .inl ⟨by simpa using hw, rfl⟩

/-- Of a CSR other than `mcause`, or one that is only written, the update is the write. -/
theorem csrUpdate_other {s : State} {i : CsrAccess} {c : Csr} (h : ¬ (c = .mcause ∧ i.reads = true)) :
    csrUpdate s i c = if i.writes then csrWrite s (i.op.apply (csrRead s c) i.operand) c else .ok s := by
  unfold csrUpdate
  rw [csrReadPart_other h]

/-- The record of a read image, bit by bit. -/
theorem seenBit_getLsbD (level : Level) (k : Nat) :
    (seenBit level).getLsbD k = decide (k = level.toNat / 16) := by
  have hl : (level.extractLsb' 4 4).toNat = level.toNat / 16 := by
    rw [BitVec.extractLsb'_toNat, Nat.shiftRight_eq_div_pow]; omega
  have hlt : level.toNat / 16 < 16 := by omega
  rw [seenBit, hl, BitVec.getLsbD_shiftLeft, BitVec.getLsbD_one]
  by_cases hk : k = level.toNat / 16
  · simp [hk, hlt]
  · by_cases h : k < level.toNat / 16
    · simp [hk, h]
    · simp [hk, h]; omega

/-- A level comes back from an image exactly if the image is its own and has been read. -/
theorem restoredLevel_eq_some {s : State} {b : BitVec 4} {level : Level} :
    restoredLevel s b = some level ↔
      levelOfImage b = some level ∧ s.mpilSeen.getLsbD (level.toNat / 16) = true := by
  have hz : ∀ l : Level, s.mpilSeen &&& seenBit l = 0#16 ↔ s.mpilSeen.getLsbD (l.toNat / 16) = false := by
    intro l
    constructor
    · intro h
      have := congrArg (fun v => BitVec.getLsbD v (l.toNat / 16)) h
      simpa [BitVec.getLsbD_and, seenBit_getLsbD] using this
    · intro h
      apply BitVec.eq_of_getLsbD_eq
      intro i _
      rw [BitVec.getLsbD_and, seenBit_getLsbD]
      by_cases hi : i = l.toNat / 16
      · simp [hi, h]
      · simp [hi]
  unfold restoredLevel
  split
  · rename_i l hl
    split
    · rename_i h
      constructor
      · intro h'; cases h'
      · rintro ⟨h1, h2⟩
        cases hl.symm.trans h1
        rw [(hz _).1 h] at h2
        cases h2
    · rename_i h
      rw [hz, Bool.not_eq_false] at h
      constructor
      · intro h'; cases h'; exact ⟨hl, h⟩
      · rintro ⟨h1, -⟩; exact hl.symm.trans h1
  · rename_i hl
    constructor
    · intro h'; cases h'
    · rintro ⟨h1, -⟩; cases hl.symm.trans h1

/-- The image of a level of the E20 stands for that level. -/
theorem levelOfImage_mpilImageOf {level : Level} (h : legalLevel level = true) :
    levelOfImage (mpilImageOf level) = some level := by
  simp only [legalLevel, Bool.or_eq_true, beq_iff_eq] at h
  simp only [levelOfImage, mpilImageOf, Equiv.symm_apply_apply]
  rcases h with (((rfl | rfl) | rfl) | rfl) | rfl <;> decide

/-- Where a CSR instruction answers a next state, it is one of three. -/
theorem csrInstruction_next {s t : State} {i : CsrAccess} (h : csrInstruction s i = .next t) :
    takeIllegal s i.bits = .next t ∨ (csrCheck s i.csr i.writes = .access .mnxti ∧ mnxtiAccess s i = .next t) ∨
    ∃ c u, c ≠ .mnxti ∧ csrCheck s i.csr i.writes = .access c ∧ csrUpdate s i c = .ok u ∧
      t = csrRetire (writeReg u i.rd (csrRead s c)) i c (s.pc + 4#32) := by
  unfold csrInstruction at h
  split at h
  · exact .inl h
  · cases h
  · rename_i c hc
    split at h
    · rename_i hm; exact .inr (.inl ⟨hm ▸ hc, h⟩)
    · rename_i hm
      split at h
      · cases h
      · rename_i u hu
        cases h
        exact .inr (.inr ⟨c, u, hm, hc, hu, rfl⟩)

/-- Where an access to `mnxti` answers a next state: nothing is offered, or the winner is. -/
theorem mnxtiAccess_next {s t : State} {i : CsrAccess} (h : mnxtiAccess s i = .next t) :
    mnxtiFormOk i = true ∧ clicMode s = true ∧
    ((mnxtiOffer s = .ok none ∧
        t = retire (writeReg (if i.writes then mnxtiStatus s i.op i.operand else s) i.rd 0#32) (s.pc + 4#32)) ∨
      ∃ w, mnxtiOffer s = .ok (some w) ∧ winner s = some w ∧
        t = retire (writeReg (if i.writes then mnxtiCommit (mnxtiStatus s i.op i.operand) w else s) i.rd
          (tableEntry s w)) (s.pc + 4#32)) := by
  unfold mnxtiAccess at h
  split at h
  · rename_i hf
    split at h
    · rename_i hc
      refine ⟨hf, hc, ?_⟩
      cases ho : mnxtiOffer s with
      | error r => rw [ho] at h; cases h
      | ok offer =>
        rw [ho] at h
        cases offer with
        | none => cases h; exact .inl ⟨rfl, rfl⟩
        | some w =>
          refine .inr ⟨w, rfl, ?_, ?_⟩
          · unfold mnxtiOffer at ho
            split at ho
            · cases ho
            · rename_i w' hw
              split at ho
              · cases ho
              · split at ho
                · cases ho
                · split at ho
                  · split at ho
                    · cases ho; exact hw
                    · cases ho
                  · cases ho
          · cases hw : i.writes <;> simp only [hw] at h <;> cases h <;> rfl
    · cases h
  · cases h

/-! ## WFI and single step -/

/-- WFI retires or stays, and stays only where no wake-up condition holds. -/
theorem afterWfi_cases (s : State) :
    (wfiRetires s = true ∧ afterWfi s = retire { s with waiting := false } (s.pc + 4#32)) ∨
    (wakeUp s = false ∧ afterWfi s = { s with waiting := true }) := by
  unfold afterWfi
  split
  · rename_i h; exact .inl ⟨h, rfl⟩
  · rename_i h
    refine .inr ⟨?_, rfl⟩
    simp only [wfiRetires, Bool.or_eq_true, not_or] at h
    simpa using h.1.1.1

/-- What a step of a hart stalled in WFI can answer. -/
theorem resumeWfi_next {s t : State} (h : resumeWfi s = .next t) :
    t = afterWfi s ∨ ∃ id, interruptDecision (afterWfi s) = .take id ∧ takeInterrupt (afterWfi s) id = .next t := by
  unfold resumeWfi at h
  split at h
  · split at h
    · rename_i id hd; exact .inr ⟨id, hd, h⟩
    · cases h
    · cases h; exact .inl rfl
  · cases h; exact .inl rfl

/-- What a single step adds to a next state: nothing, or the entry into debug mode. -/
theorem singleStep_next {s t : State} {o : Host.Outcome State Fault Refusal} (h : singleStep s o = .next t) :
    ∃ u, o = .next u ∧ (t = u ∨ (s.dcsrStep = true ∧ u.debugMode = false ∧ t = enterDebug u)) := by
  unfold singleStep at h
  split at h
  · rename_i hs
    split at h
    · rename_i u
      refine ⟨u, rfl, ?_⟩
      split at h
      · cases h; exact .inl rfl
      · rename_i hd; cases h; exact .inr ⟨hs, by simpa using hd, rfl⟩
    · cases h
    · cases h
  · exact ⟨t, h, .inl rfl⟩

/-- Without a single step nothing is added. -/
theorem singleStep_off {s : State} (h : s.dcsrStep = false) (o : Host.Outcome State Fault Refusal) :
    singleStep s o = o := by simp [singleStep, h]

end Sys2Proof.Machine
end

