-- ==== Sys2Proof/Laws/Invariant.lean ====
section
/-! SUPPORT. The shared operations keep the invariant of the machine (`Inv`), one lemma each. -/

namespace Sys2Proof.Machine

/-- The sum of even addresses is even. -/
theorem even_add {a b : Word} (ha : a.getLsbD 0 = false) (hb : b.getLsbD 0 = false) : (a + b).getLsbD 0 = false := by
  simp only [BitVec.getLsbD, Nat.testBit_zero, BitVec.toNat_add, decide_eq_false_iff_not] at *
  omega

/-- Clearing bit 0 makes an address even. -/
theorem even_clearBit0 (a : Word) : (clearBit0 a).getLsbD 0 = false := by
  simp [clearBit0]

/-- The base of the trap vector is even. -/
theorem even_trapBase (s : State) : (trapBase s).getLsbD 0 = false := by
  simp [trapBase]

/-- An even offset stays even when it is sign-extended. -/
theorem even_sext {n : Nat} {o : BitVec n} (h : lowZero o 1 = true) : (sext o).getLsbD 0 = false := by
  simp only [lowZero, beq_iff_eq] at h
  have h0 : o.getLsbD 0 = false := by
    have := congrArg (fun v => BitVec.getLsbD v 0) h
    simpa using this
  rw [sext, BitVec.getLsbD_signExtend]
  by_cases hn : 0 < n
  · simpa [hn, BitVec.getLsbD_eq_getElem hn] using h0
  · have : n = 0 := by omega
    subst this
    simp [BitVec.msb, BitVec.getMsbD]

/-- Writing a register keeps the invariant. -/
theorem inv_writeReg {s : State} (h : Inv s) (r : Reg) (v : Word) : Inv (writeReg s r v) := by
  have hx := writeReg_x_zero s r v
  by_cases hr : r = 0#5
  · rw [writeReg, if_pos hr]; exact h
  · rw [writeReg, if_neg hr] at hx ⊢
    exact { h with x0 := hx.trans h.x0 }

/-- Going on at an even address keeps the invariant. -/
theorem inv_retire {s : State} (h : Inv s) (a : Word) (ha : a.getLsbD 0 = false) : Inv (retire s a) :=
  { h with pc_even := ha }

/-- What trap entry saves keeps the invariant. -/
theorem inv_saveTrap {s : State} (h : Inv s) (i : Bool) (c : BitVec 10) (v : Word) : Inv (saveTrap s i c v) :=
  { h with
    mepc_even := h.pc_even
    mpil_legal := by
      show legalLevel (if clicMode s then s.mil else s.mcauseMpil) = true
      split
      · exact h.mil_legal
      · exact h.mpil_legal }

/-- Taking an exception keeps the invariant. -/
theorem inv_takeException {s t : State} (h : Inv s) {c : ExceptionCause} {v : Word} (ht : takeException s c v = .next t) :
    Inv t := by
  obtain ⟨-, rfl⟩ := takeException_next.1 ht
  exact { inv_saveTrap h false c.code v with pc_even := even_trapBase s }

/-- The level of an interrupt is one the E20 can produce. -/
theorem legalLevel_levelOf (nv : Bool) (n : BitVec 4) (c : BitVec 2) : legalLevel (levelOf nv n c) = true := by
  unfold levelOf
  split
  · decide
  · split
    · generalize c.extractLsb' 1 1 = d
      revert d; decide
    · revert c; decide

/-- What interrupt entry saves keeps the invariant. -/
theorem inv_saveInterrupt {s : State} (h : Inv s) (id : Nat) : Inv (saveInterrupt s id) :=
  { inv_saveTrap h true (BitVec.ofNat 10 id) 0#32 with
    mil_legal := by
      show legalLevel (if clicMode s then levelSeen s id else s.mil) = true
      split
      · exact legalLevel_levelOf _ _ _
      · exact h.mil_legal }

/-- Interrupts in the non-CLIC modes go to an even address. -/
theorem even_basicTarget (s : State) (id : Nat) : (basicTarget s id).getLsbD 0 = false := by
  unfold basicTarget
  split
  · apply even_add (even_trapBase s)
    simp [BitVec.getLsbD, Nat.testBit_zero]
    omega
  · exact even_trapBase s

/-- Taking an interrupt keeps the invariant. -/
theorem inv_takeInterrupt {s t : State} (h : Inv s) {id : Nat} (ht : takeInterrupt s id = .next t) : Inv t := by
  obtain ⟨-, ⟨-, rfl⟩ | ⟨-, -, rfl⟩ | ⟨-, -, a, -, rfl⟩⟩ := takeInterrupt_next ht
  · exact { inv_saveInterrupt h id with pc_even := even_basicTarget s id }
  · exact { inv_saveInterrupt h id with pc_even := even_trapBase s }
  · exact { inv_saveInterrupt h id with pc_even := even_clearBit0 a, minhv := rfl }

/-- The debug trap vector is even. -/
theorem even_debugEntry : debugEntry.getLsbD 0 = false := by
  show (Config.debugVector ++ 0#1 : BitVec (31 + 1)).getLsbD 0 = false
  rw [BitVec.getLsbD_append]
  rfl

/-- Entering debug mode keeps the invariant. -/
theorem inv_enterDebug {s : State} (h : Inv s) : Inv (enterDebug s) :=
  { h with dpc_even := h.pc_even, pc_even := even_debugEntry }

/-- Single step keeps the invariant. -/
theorem inv_singleStep {s t : State} {o : Host.Outcome State Fault Refusal} (ho : ∀ u, o = .next u → Inv u)
    (ht : singleStep s o = .next t) : Inv t := by
  obtain ⟨u, hu, rfl | ⟨-, -, rfl⟩⟩ := singleStep_next ht
  · exact ho _ hu
  · exact inv_enterDebug (ho _ hu)

/-- An instruction that makes accesses keeps the invariant if its accesses do. -/
theorem inv_finish {s t : State} (h : Inv s) {m : Access State} (hm : ∀ u, m = .ok u → Inv u) (ht : finish s m = .next t) : Inv t := by
  obtain he | ⟨c, v, -, ht⟩ | ⟨-, rfl⟩ := finish_next ht
  · exact hm t he
  · exact inv_takeException h ht
  · exact inv_enterDebug h

/-- A load keeps the invariant. -/
theorem inv_loadTo {s t : State} (h : Inv s) {rd : Reg} {a : Word} {w : Size} {e : Word → Word} {len : Word} (hl : len.getLsbD 0 = false)
    (ht : loadTo s rd a w e len = .next t) : Inv t := by
  refine inv_finish h (fun u hu => ?_) ht
  obtain ⟨v, -, hu⟩ := bind_eq_ok hu
  cases hu
  refine inv_retire (inv_writeReg ?_ _ _) _ (even_add h.pc_even hl)
  unfold closeClicWindow
  split
  · exact { h with clicOld_reserved := fun c hc => by cases hc }
  · exact h

/-- Replacing one enable bit leaves the others. -/
theorem setIeBit_other (v : BitVec 49) (i j : Nat) (b : Bool) (h : j ≠ i) (hj : j < 49) : (setIeBit v i b).getLsbD j = v.getLsbD j := by
  unfold setIeBit
  have : (1#49 <<< i).getLsbD j = false := by
    simp [BitVec.getLsbD_shiftLeft, BitVec.getLsbD_one]; omega
  split
  · rw [BitVec.getLsbD_or, this, Bool.or_false]
  · rw [BitVec.getLsbD_and, BitVec.getLsbD_not, this]; simp [hj]

/-- A byte stored to a CLIC register keeps the invariant. -/
theorem inv_clicWriteSlot {s : State} (h : Inv s) (b : Byte) (k : ClicSlot) : Inv (clicWriteSlot s b k) := by
  unfold clicWriteSlot
  split
  · split
    · exact { h with clic_reserved := h.clic_reserved }
    · exact h
  · exact { h with clic_reserved := h.clic_reserved }
  · exact { h with clic_reserved := h.clic_reserved }
  · split
    · exact { h with clic_reserved := h.clic_reserved }
    · split
      · exact { h with clic_reserved := h.clic_reserved }
      · exact h
  · split
    · rename_i id hi
      exact { h with clic_reserved := fun j hj hn => ⟨by
          rw [setIeBit_other _ _ _ _ (by rintro rfl; simp [hi] at hn) hj]; exact (h.clic_reserved j hj hn).1,
        (h.clic_reserved j hj hn).2⟩ }
    · exact h
  · split
    · rename_i id hi
      exact { h with clic_reserved := fun j hj hn => ⟨(h.clic_reserved j hj hn).1, by
          have := (h.clic_reserved j hj hn).2
          have hne : id ≠ j := by rintro rfl; simp [hi] at hn
          simp only [ClicRegs.cfgOf, hj, dite_true] at this ⊢
          rw [Vector.getElem_setIfInBounds_ne _ hne]
          exact this⟩ }
    · exact h
  · exact { h with clic_reserved := h.clic_reserved }

/-- A store to the CLIC registers keeps the invariant. -/
theorem inv_clicWrite (bs : List Byte) : ∀ {s t : State} (_ : Inv s) {a : Nat} (_ : clicWrite s a bs = some t), Inv t := by
  induction bs with
  | nil => intro s t h a ht; cases ht; exact h
  | cons b bs ih =>
    intro s t h a ht
    unfold clicWrite at ht
    split at ht
    · exact ih (inv_clicWriteSlot h b _) ht
    · cases ht

/-- A store to the CLIC registers leaves the parameters. -/
theorem clicWrite_params (bs : List Byte) : ∀ {s t : State} {a : Nat}, clicWrite s a bs = some t → t.params = s.params := by
  induction bs with
  | nil => intro s t a ht; cases ht; rfl
  | cons b bs ih =>
    intro s t a ht
    unfold clicWrite at ht
    split at ht
    · rw [ih ht, clicWriteSlot_params]
    · cases ht

/-- A store keeps the invariant. -/
theorem inv_storeFrom {s t : State} (h : Inv s) {a : Word} {w : Size} {v len : Word} (hl : len.getLsbD 0 = false)
    (ht : storeFrom s a w v len = .next t) : Inv t := by
  refine inv_finish h (fun u hu => ?_) ht
  obtain ⟨p, hp, hu⟩ := bind_eq_ok hu
  cases hu
  refine inv_retire ?_ _ (even_add h.pc_even hl)
  obtain ⟨-, ha, hr⟩ := memWrite_ok hp
  obtain ⟨hg, -, rfl⟩ | ⟨-, q, hq, rfl⟩ := regionWrite_ok hr
  · refine { h with mem_wf := Memory.writeBytes_wf _ _ _ h.mem_wf, mem_port := fun c hc => ?_ }
    rcases Memory.writeBytes_mem _ _ _ _ hc with hc | hc
    · exact h.mem_port c hc
    · rw [bytesOf_length] at hc
      have : 0x20000000 ≤ a.toNat ∧ a.toNat < 0x40000000 := by
        unfold regionOf at hg
        split at hg
        · cases hg
        · split at hg
          · cases hg
          · split at hg
            · assumption
            · cases hg
      simp only [aligned, beq_iff_eq] at ha
      cases w <;> simp only [Size.bytes] at ha hc <;> omega
  · have hi := inv_clicWrite _ h hq
    unfold openClicWindow
    split
    · exact hi
    · refine { hi with clicOld_reserved := fun c hc => ?_ }
      show c.reservedZero q.params
      rw [clicWrite_params _ hq]
      rcases List.mem_cons.1 hc with rfl | hc
      · exact h.clic_reserved
      · exact h.clicOld_reserved c hc

/-- Replacing the selected trigger keeps the invariant, if trigger 3 is not chained. -/
theorem inv_setTrigger {s : State} (h : Inv s) (t : Trigger) (ht : s.tselect = 3#2 → t.chain = false) : Inv (setTrigger s t) := by
  refine { h with last_unchained := ?_ }
  have := h.last_unchained
  simp only [setTrigger, Vector.get_eq_getElem] at *
  by_cases hs : s.tselect = 3#2
  · have : s.tselect.toNat = 3 := by rw [hs]; rfl
    simp [this, ht hs]
  · have : s.tselect.toNat ≠ 3 := fun e => hs (BitVec.eq_of_toNat_eq e)
    refine (congrArg Trigger.chain (Vector.getElem_set_ne _ _ this)).trans ?_
    assumption

/-- The read part of a CSR instruction keeps the invariant. -/
theorem inv_csrReadPart {s t : State} (h : Inv s) {i : CsrAccess} {c : Csr} (ht : csrReadPart s i c = .ok t) : Inv t := by
  obtain rfl | ⟨-, -, -, -, rfl⟩ := csrReadPart_ok ht
  · exact h
  · exact { h with x0 := h.x0 }

/-- The level that a write of an image restores is one the E20 can produce. -/
theorem legalLevel_restoredLevel {s : State} {b : BitVec 4} {l : Level} (h : restoredLevel s b = some l) :
    legalLevel l = true := by
  unfold restoredLevel at h
  split at h
  · rename_i k hk
    split at h
    · cases h
    · cases h
      simp only [levelOfImage] at hk
      split at hk
      · cases hk; decide
      split at hk
      · cases hk; decide
      split at hk
      · cases hk; decide
      split at hk
      · cases hk; decide
      split at hk
      · cases hk; decide
      · cases hk
  · cases h

/-- A CSR write keeps the invariant. -/
theorem inv_csrWrite {s t : State} (h : Inv s) {v : Word} {c : Csr} (ht : csrWrite s v c = .ok t) : Inv t := by
  cases c <;> simp only [csrWrite] at ht
  case mtvec =>
    unfold mtvecWrite at ht
    split at ht
    · cases ht; exact { h with x0 := h.x0 }
    · split at ht
      · cases ht
      · split at ht <;> (cases ht; exact { h with x0 := h.x0 })
  case mcause =>
    unfold mcauseWrite at ht
    split at ht
    · split at ht
      · cases ht
      · split at ht
        · rename_i l hl
          cases ht
          exact { h with minhv := rfl, mpil_legal := legalLevel_restoredLevel hl }
        · cases ht
    · cases ht; exact { h with x0 := h.x0 }
  case tdata1 =>
    unfold tdata1Write at ht
    split at ht
    · cases ht
    · split at ht
      · cases ht
      · rename_i hn
        cases ht
        refine inv_setTrigger h _ (fun hs => ?_)
        simpa [hs, mcontrolWrite] using hn
  case tdata2 =>
    cases ht
    refine inv_setTrigger h _ (fun hs => ?_)
    have := h.last_unchained
    simp only [selectedTrigger, hs]
    exact this
  case mepc => cases ht; exact { h with mepc_even := even_clearBit0 v }
  case dpc => cases ht; exact { h with dpc_even := even_clearBit0 v }
  case mie =>
    split at ht <;> (cases ht; exact { h with x0 := h.x0 })
  all_goals first
    | (cases ht; done)
    | (cases ht; exact { h with x0 := h.x0 })

/-- A CSR instruction keeps the invariant. -/
theorem inv_csrInstruction {s t : State} (h : Inv s) {i : CsrAccess} (ht : csrInstruction s i = .next t) : Inv t := by
  have he : (s.pc + 4#32).getLsbD 0 = false := even_add h.pc_even (by decide)
  obtain ht | ⟨-, ht⟩ | ⟨c, u, -, -, hu, rfl⟩ := csrInstruction_next ht
  · exact inv_takeException h ht
  · obtain ⟨-, -, ⟨-, rfl⟩ | ⟨w, -, -, rfl⟩⟩ := mnxtiAccess_next ht
    · refine inv_retire (inv_writeReg ?_ _ _) _ he
      split
      · exact { h with x0 := h.x0 }
      · exact h
    · refine inv_retire (inv_writeReg ?_ _ _) _ he
      split
      · exact { h with mil_legal := legalLevel_levelOf _ _ _ }
      · exact h
  · have hu : Inv u := by
      obtain ⟨v, hv, ⟨-, rfl⟩ | ⟨-, hu⟩⟩ := csrUpdate_ok hu
      · exact inv_csrReadPart h hv
      · exact inv_csrWrite (inv_csrReadPart h hv) hu
    unfold csrRetire
    split
    · exact { inv_writeReg hu _ _ with pc_even := he }
    · exact inv_retire (inv_writeReg hu _ _) _ he

/-- A computation keeps the invariant. -/
theorem inv_writeAndRetire {s t : State} (h : Inv s) {rd : Reg} {v len : Word} (hl : len.getLsbD 0 = false)
    (ht : writeAndRetire s rd v len = .next t) : Inv t := by
  cases ht; exact inv_retire (inv_writeReg h _ _) _ (even_add h.pc_even hl)

/-- A jump to an even address keeps the invariant. -/
theorem inv_jumpAndLink {s t : State} (h : Inv s) {rd : Reg} {a len : Word} (ha : a.getLsbD 0 = false)
    (ht : jumpAndLink s rd a len = .next t) : Inv t := by
  cases ht; exact inv_retire (inv_writeReg h _ _) _ ha

/-- A branch by an even offset keeps the invariant. -/
theorem inv_branch {s t : State} (h : Inv s) {c : Bool} {o len : Word} (ho : o.getLsbD 0 = false) (hl : len.getLsbD 0 = false)
    (ht : branch s c o len = .next t) : Inv t := by
  cases ht; refine inv_retire h _ ?_; split
  · exact even_add h.pc_even ho
  · exact even_add h.pc_even hl

/-- WFI keeps the invariant. -/
theorem inv_afterWfi {s : State} (h : Inv s) : Inv (afterWfi s) := by
  obtain ⟨-, he⟩ | ⟨-, he⟩ := afterWfi_cases s <;> rw [he]
  · exact { h with pc_even := even_add h.pc_even (by decide) }
  · exact { h with x0 := h.x0 }

/-- A step of a hart stalled in WFI keeps the invariant. -/
theorem inv_resumeWfi {s t : State} (h : Inv s) (ht : resumeWfi s = .next t) : Inv t := by
  obtain rfl | ⟨id, -, ht⟩ := resumeWfi_next ht
  · exact inv_afterWfi h
  · exact inv_takeInterrupt (inv_afterWfi h) ht

/-- A breakpoint instruction keeps the invariant. -/
theorem inv_takeBreakpoint {s t : State} (h : Inv s) (ht : takeBreakpoint s = .next t) : Inv t := by
  unfold takeBreakpoint at ht
  split at ht
  · cases ht; exact inv_enterDebug h
  · exact inv_takeException h ht

end Sys2Proof.Machine
end

