-- ==== Sys2Proof/Laws/PerInstr.lean ====
section
/-! SUPPORT. Families of lemmas with one member for each constructor of `Instr`. -/

namespace Sys2Proof.Laws.EncodedLength

/-- The low two bits of the first parcel tell the length of an instruction (spec/30_encoding.md R180). -/
def Statement (i : Instr) : Prop :=
  parcelIsFull ((encode i).bits.setWidth 16) = decide ((encode i).length = 4)

/-- The low bits of a word whose lowest field is `y`. -/
theorem low_of_append {n m : Nat} (x : BitVec n) (y : BitVec m) (h : 2 ≤ m) :
    (x ++ y).extractLsb' 0 2 = y.extractLsb' 0 2 := by
  ext i hi
  have : i < m := by omega
  simp [this, BitVec.getLsbD_append]

/-- The low bits of the first parcel are the low bits of the word. -/
theorem low_of_bits (w : Word) : (w.setWidth 16).extractLsb' 0 2 = w.extractLsb' 0 2 := by
  ext i hi
  have : i < 16 := by omega
  simp [this]

/-- A 32-bit word whose low bits are `11` reads as full. -/
theorem full {w : BitVec 32} (h : w.extractLsb' 0 2 = 0b11#2) :
    parcelIsFull ((Encoded.full w).bits.setWidth 16) = decide ((Encoded.full w).length = 4) := by
  simp [parcelIsFull, Encoded.bits, Encoded.length, low_of_bits, h]

/-- A 16-bit word whose low bits are not `11` does not. -/
theorem half {w : BitVec 16} (h : w.extractLsb' 0 2 ≠ 0b11#2) :
    parcelIsFull ((Encoded.half w).bits.setWidth 16) = decide ((Encoded.half w).length = 4) := by
  have e : ((Encoded.half w).bits.setWidth 16) = w := by
    simp [Encoded.bits]
  simp [parcelIsFull, e, Encoded.length, h]

theorem lui (rd : Reg) (imm20 : BitVec 20) : Statement (.lui rd imm20) :=
    full (by rw [low_of_append _ _ (by decide)]; decide)
theorem auipc (rd : Reg) (imm20 : BitVec 20) : Statement (.auipc rd imm20) :=
    full (by rw [low_of_append _ _ (by decide)]; decide)
theorem jal (rd : Reg) (offset : BitVec 21) : Statement (.jal rd offset) :=
    full (by rw [low_of_append _ _ (by decide)]; decide)
theorem jalr (rd rs1 : Reg) (imm : BitVec 12) : Statement (.jalr rd rs1 imm) :=
    full (by rw [low_of_append _ _ (by decide)]; decide)
theorem beq (rs1 rs2 : Reg) (offset : BitVec 13) : Statement (.beq rs1 rs2 offset) :=
    full (by rw [low_of_append _ _ (by decide)]; decide)
theorem bne (rs1 rs2 : Reg) (offset : BitVec 13) : Statement (.bne rs1 rs2 offset) :=
    full (by rw [low_of_append _ _ (by decide)]; decide)
theorem blt (rs1 rs2 : Reg) (offset : BitVec 13) : Statement (.blt rs1 rs2 offset) :=
    full (by rw [low_of_append _ _ (by decide)]; decide)
theorem bge (rs1 rs2 : Reg) (offset : BitVec 13) : Statement (.bge rs1 rs2 offset) :=
    full (by rw [low_of_append _ _ (by decide)]; decide)
theorem bltu (rs1 rs2 : Reg) (offset : BitVec 13) : Statement (.bltu rs1 rs2 offset) :=
    full (by rw [low_of_append _ _ (by decide)]; decide)
theorem bgeu (rs1 rs2 : Reg) (offset : BitVec 13) : Statement (.bgeu rs1 rs2 offset) :=
    full (by rw [low_of_append _ _ (by decide)]; decide)
theorem lb (rd rs1 : Reg) (imm : BitVec 12) : Statement (.lb rd rs1 imm) :=
    full (by rw [low_of_append _ _ (by decide)]; decide)
theorem lh (rd rs1 : Reg) (imm : BitVec 12) : Statement (.lh rd rs1 imm) :=
    full (by rw [low_of_append _ _ (by decide)]; decide)
theorem lw (rd rs1 : Reg) (imm : BitVec 12) : Statement (.lw rd rs1 imm) :=
    full (by rw [low_of_append _ _ (by decide)]; decide)
theorem lbu (rd rs1 : Reg) (imm : BitVec 12) : Statement (.lbu rd rs1 imm) :=
    full (by rw [low_of_append _ _ (by decide)]; decide)
theorem lhu (rd rs1 : Reg) (imm : BitVec 12) : Statement (.lhu rd rs1 imm) :=
    full (by rw [low_of_append _ _ (by decide)]; decide)
theorem sb (rs2 rs1 : Reg) (imm : BitVec 12) : Statement (.sb rs2 rs1 imm) :=
    full (by rw [low_of_append _ _ (by decide)]; decide)
theorem sh (rs2 rs1 : Reg) (imm : BitVec 12) : Statement (.sh rs2 rs1 imm) :=
    full (by rw [low_of_append _ _ (by decide)]; decide)
theorem sw (rs2 rs1 : Reg) (imm : BitVec 12) : Statement (.sw rs2 rs1 imm) :=
    full (by rw [low_of_append _ _ (by decide)]; decide)
theorem addi (rd rs1 : Reg) (imm : BitVec 12) : Statement (.addi rd rs1 imm) :=
    full (by rw [low_of_append _ _ (by decide)]; decide)
theorem slti (rd rs1 : Reg) (imm : BitVec 12) : Statement (.slti rd rs1 imm) :=
    full (by rw [low_of_append _ _ (by decide)]; decide)
theorem sltiu (rd rs1 : Reg) (imm : BitVec 12) : Statement (.sltiu rd rs1 imm) :=
    full (by rw [low_of_append _ _ (by decide)]; decide)
theorem xori (rd rs1 : Reg) (imm : BitVec 12) : Statement (.xori rd rs1 imm) :=
    full (by rw [low_of_append _ _ (by decide)]; decide)
theorem ori (rd rs1 : Reg) (imm : BitVec 12) : Statement (.ori rd rs1 imm) :=
    full (by rw [low_of_append _ _ (by decide)]; decide)
theorem andi (rd rs1 : Reg) (imm : BitVec 12) : Statement (.andi rd rs1 imm) :=
    full (by rw [low_of_append _ _ (by decide)]; decide)
theorem slli (rd rs1 : Reg) (shamt : BitVec 5) : Statement (.slli rd rs1 shamt) :=
    full (by rw [low_of_append _ _ (by decide)]; decide)
theorem srli (rd rs1 : Reg) (shamt : BitVec 5) : Statement (.srli rd rs1 shamt) :=
    full (by rw [low_of_append _ _ (by decide)]; decide)
theorem srai (rd rs1 : Reg) (shamt : BitVec 5) : Statement (.srai rd rs1 shamt) :=
    full (by rw [low_of_append _ _ (by decide)]; decide)
theorem add (rd rs1 rs2 : Reg) : Statement (.add rd rs1 rs2) :=
    full (by rw [low_of_append _ _ (by decide)]; decide)
theorem sub (rd rs1 rs2 : Reg) : Statement (.sub rd rs1 rs2) :=
    full (by rw [low_of_append _ _ (by decide)]; decide)
theorem sll (rd rs1 rs2 : Reg) : Statement (.sll rd rs1 rs2) :=
    full (by rw [low_of_append _ _ (by decide)]; decide)
theorem slt (rd rs1 rs2 : Reg) : Statement (.slt rd rs1 rs2) :=
    full (by rw [low_of_append _ _ (by decide)]; decide)
theorem sltu (rd rs1 rs2 : Reg) : Statement (.sltu rd rs1 rs2) :=
    full (by rw [low_of_append _ _ (by decide)]; decide)
theorem xor (rd rs1 rs2 : Reg) : Statement (.xor rd rs1 rs2) :=
    full (by rw [low_of_append _ _ (by decide)]; decide)
theorem srl (rd rs1 rs2 : Reg) : Statement (.srl rd rs1 rs2) :=
    full (by rw [low_of_append _ _ (by decide)]; decide)
theorem sra (rd rs1 rs2 : Reg) : Statement (.sra rd rs1 rs2) :=
    full (by rw [low_of_append _ _ (by decide)]; decide)
theorem or (rd rs1 rs2 : Reg) : Statement (.or rd rs1 rs2) :=
    full (by rw [low_of_append _ _ (by decide)]; decide)
theorem and (rd rs1 rs2 : Reg) : Statement (.and rd rs1 rs2) :=
    full (by rw [low_of_append _ _ (by decide)]; decide)
theorem fence (fm pred succ : BitVec 4) (rs1 rd : Reg) : Statement (.fence fm pred succ rs1 rd) :=
    full (by rw [low_of_append _ _ (by decide)]; decide)
theorem fenceI (imm : BitVec 12) (rs1 rd : Reg) : Statement (.fenceI imm rs1 rd) :=
    full (by rw [low_of_append _ _ (by decide)]; decide)
theorem ecall : Statement (.ecall) := full (by decide)
theorem ebreak : Statement (.ebreak) := full (by decide)
theorem csrrw (rd rs1 : Reg) (csr : BitVec 12) : Statement (.csrrw rd rs1 csr) :=
    full (by rw [low_of_append _ _ (by decide)]; decide)
theorem csrrs (rd rs1 : Reg) (csr : BitVec 12) : Statement (.csrrs rd rs1 csr) :=
    full (by rw [low_of_append _ _ (by decide)]; decide)
theorem csrrc (rd rs1 : Reg) (csr : BitVec 12) : Statement (.csrrc rd rs1 csr) :=
    full (by rw [low_of_append _ _ (by decide)]; decide)
theorem csrrwi (rd : Reg) (uimm : BitVec 5) (csr : BitVec 12) : Statement (.csrrwi rd uimm csr) :=
    full (by rw [low_of_append _ _ (by decide)]; decide)
theorem csrrsi (rd : Reg) (uimm : BitVec 5) (csr : BitVec 12) : Statement (.csrrsi rd uimm csr) :=
    full (by rw [low_of_append _ _ (by decide)]; decide)
theorem csrrci (rd : Reg) (uimm : BitVec 5) (csr : BitVec 12) : Statement (.csrrci rd uimm csr) :=
    full (by rw [low_of_append _ _ (by decide)]; decide)
theorem mret : Statement (.mret) := full (by decide)
theorem wfi : Statement (.wfi) := full (by decide)
theorem dret : Statement (.dret) := full (by decide)
theorem mul (rd rs1 rs2 : Reg) : Statement (.mul rd rs1 rs2) :=
    full (by rw [low_of_append _ _ (by decide)]; decide)
theorem mulh (rd rs1 rs2 : Reg) : Statement (.mulh rd rs1 rs2) :=
    full (by rw [low_of_append _ _ (by decide)]; decide)
theorem mulhsu (rd rs1 rs2 : Reg) : Statement (.mulhsu rd rs1 rs2) :=
    full (by rw [low_of_append _ _ (by decide)]; decide)
theorem mulhu (rd rs1 rs2 : Reg) : Statement (.mulhu rd rs1 rs2) :=
    full (by rw [low_of_append _ _ (by decide)]; decide)
theorem div (rd rs1 rs2 : Reg) : Statement (.div rd rs1 rs2) :=
    full (by rw [low_of_append _ _ (by decide)]; decide)
theorem divu (rd rs1 rs2 : Reg) : Statement (.divu rd rs1 rs2) :=
    full (by rw [low_of_append _ _ (by decide)]; decide)
theorem rem (rd rs1 rs2 : Reg) : Statement (.rem rd rs1 rs2) :=
    full (by rw [low_of_append _ _ (by decide)]; decide)
theorem remu (rd rs1 rs2 : Reg) : Statement (.remu rd rs1 rs2) :=
    full (by rw [low_of_append _ _ (by decide)]; decide)
theorem cIllegal : Statement (.cIllegal) := half (by decide)
theorem cAddi4spn (rd : CReg) (nzuimm : BitVec 10) : Statement (.cAddi4spn rd nzuimm) :=
    half (by rw [low_of_append _ _ (by decide)]; decide)
theorem cLw (rd rs1 : CReg) (uimm : BitVec 7) : Statement (.cLw rd rs1 uimm) :=
    half (by rw [low_of_append _ _ (by decide)]; decide)
theorem cSw (rs2 rs1 : CReg) (uimm : BitVec 7) : Statement (.cSw rs2 rs1 uimm) :=
    half (by rw [low_of_append _ _ (by decide)]; decide)
theorem cNop (imm : BitVec 6) : Statement (.cNop imm) := half (by rw [low_of_append _ _ (by decide)]; decide)
theorem cAddi (rd : Reg) (imm : BitVec 6) : Statement (.cAddi rd imm) :=
    half (by rw [low_of_append _ _ (by decide)]; decide)
theorem cJal (offset : BitVec 12) : Statement (.cJal offset) :=
    half (by rw [low_of_append _ _ (by decide)]; decide)
theorem cLi (rd : Reg) (imm : BitVec 6) : Statement (.cLi rd imm) :=
    half (by rw [low_of_append _ _ (by decide)]; decide)
theorem cAddi16sp (nzimm : BitVec 10) : Statement (.cAddi16sp nzimm) :=
    half (by rw [low_of_append _ _ (by decide)]; decide)
theorem cLui (rd : Reg) (nzimm : BitVec 18) : Statement (.cLui rd nzimm) :=
    half (by rw [low_of_append _ _ (by decide)]; decide)
theorem cSrli (rd : CReg) (shamt : BitVec 5) : Statement (.cSrli rd shamt) :=
    half (by rw [low_of_append _ _ (by decide)]; decide)
theorem cSrai (rd : CReg) (shamt : BitVec 5) : Statement (.cSrai rd shamt) :=
    half (by rw [low_of_append _ _ (by decide)]; decide)
theorem cAndi (rd : CReg) (imm : BitVec 6) : Statement (.cAndi rd imm) :=
    half (by rw [low_of_append _ _ (by decide)]; decide)
theorem cSub (rd rs2 : CReg) : Statement (.cSub rd rs2) :=
    half (by rw [low_of_append _ _ (by decide)]; decide)
theorem cXor (rd rs2 : CReg) : Statement (.cXor rd rs2) :=
    half (by rw [low_of_append _ _ (by decide)]; decide)
theorem cOr (rd rs2 : CReg) : Statement (.cOr rd rs2) := half (by rw [low_of_append _ _ (by decide)]; decide)
theorem cAnd (rd rs2 : CReg) : Statement (.cAnd rd rs2) :=
    half (by rw [low_of_append _ _ (by decide)]; decide)
theorem cJ (offset : BitVec 12) : Statement (.cJ offset) :=
    half (by rw [low_of_append _ _ (by decide)]; decide)
theorem cBeqz (rs1 : CReg) (offset : BitVec 9) : Statement (.cBeqz rs1 offset) :=
    half (by rw [low_of_append _ _ (by decide)]; decide)
theorem cBnez (rs1 : CReg) (offset : BitVec 9) : Statement (.cBnez rs1 offset) :=
    half (by rw [low_of_append _ _ (by decide)]; decide)
theorem cSlli (rd : Reg) (shamt : BitVec 5) : Statement (.cSlli rd shamt) :=
    half (by rw [low_of_append _ _ (by decide)]; decide)
theorem cLwsp (rd : Reg) (uimm : BitVec 8) : Statement (.cLwsp rd uimm) :=
    half (by rw [low_of_append _ _ (by decide)]; decide)
theorem cJr (rs1 : Reg) : Statement (.cJr rs1) := half (by rw [low_of_append _ _ (by decide)]; decide)
theorem cMv (rd rs2 : Reg) : Statement (.cMv rd rs2) := half (by rw [low_of_append _ _ (by decide)]; decide)
theorem cEbreak : Statement (.cEbreak) := half (by decide)
theorem cJalr (rs1 : Reg) : Statement (.cJalr rs1) := half (by rw [low_of_append _ _ (by decide)]; decide)
theorem cAdd (rd rs2 : Reg) : Statement (.cAdd rd rs2) := half (by rw [low_of_append _ _ (by decide)]; decide)
theorem cSwsp (rs2 : Reg) (uimm : BitVec 8) : Statement (.cSwsp rs2 uimm) :=
    half (by rw [low_of_append _ _ (by decide)]; decide)

end Sys2Proof.Laws.EncodedLength
end

