-- ==== Sys2Proof/Tests/Slice0.lean ====
section
/-! SUPPORT. Tests: terms that the well-formedness check refuses, words decoded as the rules' examples give them,
one step of each instruction with the values of the rules' examples, and a concrete witness for the hypotheses of
each obligation that has some. -/

namespace Sys2Proof.Tests

open Sys2Proof.Machine

/-! ## Helpers -/

/-- The reset state with the pc, some registers and a handler address set. -/
def startAt (pc : Word) (regs : List (Reg × Word)) : State :=
  regs.foldl (fun s p => writeReg s p.1 p.2) { State.reset with pc := pc, mtvec := 0x20000400#32 }

/-- The same with bytes in memory. -/
def withBytes (s : State) (a : Nat) (bs : List Byte) : State := { s with mem := Memory.writeBytes s.mem a bs }

/-- The next state, if there is one. -/
def after (o : Host.Outcome State Fault Refusal) : Option State :=
  match o with
  | .next t => some t
  | .fault _ => none
  | .refused _ => none

/-- A register after an instruction. -/
def regAfter (i : Instr) (s : State) (r : Reg) : Option Word := (after (exec i s)).map fun t => readReg t r

/-- The pc after an instruction. -/
def pcAfter (i : Instr) (s : State) : Option Word := (after (exec i s)).map State.pc

/-- Some bytes after an instruction. -/
def bytesAfter (i : Instr) (s : State) (a n : Nat) : Option (List Byte) :=
  (after (exec i s)).map fun t => Memory.readBytes t.mem a n

/-- Cause, saved pc and pc after an instruction. -/
def trapAfter (i : Instr) (s : State) : Option (Bool × BitVec 10 × Word × Word) :=
  (after (exec i s)).map fun t => (t.mcauseInterrupt, t.mcauseCode, t.mepc, t.pc)

/-! ## Ill-formed terms, one for each check -/

theorem test_wf_refuses_jal : Instr.wf (.jal 1#5 3#21) = false := by decide
theorem test_wf_refuses_beq : Instr.wf (.beq 1#5 2#5 3#13) = false := by decide
theorem test_wf_refuses_bne : Instr.wf (.bne 1#5 2#5 1#13) = false := by decide
theorem test_wf_refuses_blt : Instr.wf (.blt 1#5 2#5 5#13) = false := by decide
theorem test_wf_refuses_bge : Instr.wf (.bge 1#5 2#5 7#13) = false := by decide
theorem test_wf_refuses_bltu : Instr.wf (.bltu 1#5 2#5 9#13) = false := by decide
theorem test_wf_refuses_bgeu : Instr.wf (.bgeu 1#5 2#5 11#13) = false := by decide
theorem test_wf_refuses_cAddi4spn_zero : Instr.wf (.cAddi4spn 0#3 0#10) = false := by decide
theorem test_wf_refuses_cAddi4spn_scale : Instr.wf (.cAddi4spn 0#3 6#10) = false := by decide
theorem test_wf_refuses_cLw : Instr.wf (.cLw 0#3 1#3 2#7) = false := by decide
theorem test_wf_refuses_cSw : Instr.wf (.cSw 0#3 1#3 1#7) = false := by decide
theorem test_wf_refuses_cAddi : Instr.wf (.cAddi 0#5 1#6) = false := by decide
theorem test_wf_refuses_cJal : Instr.wf (.cJal 1#12) = false := by decide
theorem test_wf_refuses_cAddi16sp_zero : Instr.wf (.cAddi16sp 0#10) = false := by decide
theorem test_wf_refuses_cAddi16sp_scale : Instr.wf (.cAddi16sp 8#10) = false := by decide
theorem test_wf_refuses_cLui_zero : Instr.wf (.cLui 1#5 0#18) = false := by decide
theorem test_wf_refuses_cLui_scale : Instr.wf (.cLui 1#5 0x800#18) = false := by decide
theorem test_wf_refuses_cLui_sp : Instr.wf (.cLui 2#5 0x1000#18) = false := by decide
theorem test_wf_refuses_cJ : Instr.wf (.cJ 1#12) = false := by decide
theorem test_wf_refuses_cBeqz : Instr.wf (.cBeqz 0#3 1#9) = false := by decide
theorem test_wf_refuses_cBnez : Instr.wf (.cBnez 0#3 3#9) = false := by decide
theorem test_wf_refuses_cLwsp_scale : Instr.wf (.cLwsp 1#5 2#8) = false := by decide
theorem test_wf_refuses_cLwsp_x0 : Instr.wf (.cLwsp 0#5 4#8) = false := by decide
theorem test_wf_refuses_cJr : Instr.wf (.cJr 0#5) = false := by decide
theorem test_wf_refuses_cMv : Instr.wf (.cMv 1#5 0#5) = false := by decide
theorem test_wf_refuses_cJalr : Instr.wf (.cJalr 0#5) = false := by decide
theorem test_wf_refuses_cAdd : Instr.wf (.cAdd 1#5 0#5) = false := by decide
theorem test_wf_refuses_cSwsp : Instr.wf (.cSwsp 1#5 2#8) = false := by decide

/-! ## Words decoded: each line is an example of the rule of its instruction (spec/40 to 45) or is assembled from
the fields the rule gives -/

theorem test_decode_lui : decode (.full 0x12345537#32) = .ok (.lui 10#5 0x12345#20) := by decide
theorem test_decode_auipc : decode (.full 0x00001597#32) = .ok (.auipc 11#5 1#20) := by decide
theorem test_decode_jal : decode (.full 0x001000EF#32) = .ok (.jal 1#5 2048#21) := by decide
theorem test_decode_jalr : decode (.full 0x004500E7#32) = .ok (.jalr 1#5 10#5 4#12) := by decide
theorem test_decode_beq : decode (.full 0x00B50863#32) = .ok (.beq 10#5 11#5 16#13) := by decide
theorem test_decode_bne : decode (.full 0xFEB51CE3#32) = .ok (.bne 10#5 11#5 (-8#13)) := by decide
theorem test_decode_blt : decode (.full 0x7EB54FE3#32) = .ok (.blt 10#5 11#5 4094#13) := by decide
theorem test_decode_bge : decode (.full 0x80B55063#32) = .ok (.bge 10#5 11#5 (-4096#13)) := by decide
theorem test_decode_bltu : decode (.full 0x00B56463#32) = .ok (.bltu 10#5 11#5 8#13) := by decide
theorem test_decode_bgeu : decode (.full 0x00B57463#32) = .ok (.bgeu 10#5 11#5 8#13) := by decide
theorem test_decode_lb : decode (.full 0xFFF58503#32) = .ok (.lb 10#5 11#5 (-1#12)) := by decide
theorem test_decode_lh : decode (.full 0x00259503#32) = .ok (.lh 10#5 11#5 2#12) := by decide
theorem test_decode_lw : decode (.full 0x00812503#32) = .ok (.lw 10#5 2#5 8#12) := by decide
theorem test_decode_lbu : decode (.full 0x0005C503#32) = .ok (.lbu 10#5 11#5 0#12) := by decide
theorem test_decode_lhu : decode (.full 0x7FE5D503#32) = .ok (.lhu 10#5 11#5 2046#12) := by decide
theorem test_decode_sb : decode (.full 0xFEA58FA3#32) = .ok (.sb 10#5 11#5 (-1#12)) := by decide
theorem test_decode_sh : decode (.full 0x00A59123#32) = .ok (.sh 10#5 11#5 2#12) := by decide
theorem test_decode_sw : decode (.full 0x00A12423#32) = .ok (.sw 10#5 2#5 8#12) := by decide
theorem test_decode_addi : decode (.full 0xFFF58513#32) = .ok (.addi 10#5 11#5 (-1#12)) := by decide
theorem test_decode_slti : decode (.full 0xFFB5A513#32) = .ok (.slti 10#5 11#5 (-5#12)) := by decide
theorem test_decode_sltiu : decode (.full 0x0015B513#32) = .ok (.sltiu 10#5 11#5 1#12) := by decide
theorem test_decode_xori : decode (.full 0xFFF5C513#32) = .ok (.xori 10#5 11#5 (-1#12)) := by decide
theorem test_decode_ori : decode (.full 0x7F05E513#32) = .ok (.ori 10#5 11#5 0x7F0#12) := by decide
theorem test_decode_andi : decode (.full 0x0FF5F513#32) = .ok (.andi 10#5 11#5 0xFF#12) := by decide
theorem test_decode_slli : decode (.full 0x01F59513#32) = .ok (.slli 10#5 11#5 31#5) := by decide
theorem test_decode_srli : decode (.full 0x0045D513#32) = .ok (.srli 10#5 11#5 4#5) := by decide
theorem test_decode_srai : decode (.full 0x4045D513#32) = .ok (.srai 10#5 11#5 4#5) := by decide
theorem test_decode_add : decode (.full 0x00C58533#32) = .ok (.add 10#5 11#5 12#5) := by decide
theorem test_decode_sub : decode (.full 0x40C58533#32) = .ok (.sub 10#5 11#5 12#5) := by decide
theorem test_decode_sll : decode (.full 0x00C59533#32) = .ok (.sll 10#5 11#5 12#5) := by decide
theorem test_decode_slt : decode (.full 0x00C5A533#32) = .ok (.slt 10#5 11#5 12#5) := by decide
theorem test_decode_sltu : decode (.full 0x00C5B533#32) = .ok (.sltu 10#5 11#5 12#5) := by decide
theorem test_decode_xor : decode (.full 0x00C5C533#32) = .ok (.xor 10#5 11#5 12#5) := by decide
theorem test_decode_srl : decode (.full 0x00C5D533#32) = .ok (.srl 10#5 11#5 12#5) := by decide
theorem test_decode_sra : decode (.full 0x40C5D533#32) = .ok (.sra 10#5 11#5 12#5) := by decide
theorem test_decode_or : decode (.full 0x00C5E533#32) = .ok (.or 10#5 11#5 12#5) := by decide
theorem test_decode_and : decode (.full 0x00C5F533#32) = .ok (.and 10#5 11#5 12#5) := by decide
theorem test_decode_fence : decode (.full 0x0310000F#32) = .ok (.fence 0#4 3#4 1#4 0#5 0#5) := by decide
theorem test_decode_fenceI : decode (.full 0x0000100F#32) = .ok (.fenceI 0#12 0#5 0#5) := by decide
theorem test_decode_ecall : decode (.full 0x00000073#32) = .ok .ecall := by decide
theorem test_decode_ebreak : decode (.full 0x00100073#32) = .ok .ebreak := by decide
theorem test_decode_csrrw : decode (.full 0x34059573#32) = .ok (.csrrw 10#5 11#5 0x340#12) := by decide
theorem test_decode_csrrs : decode (.full 0x30002573#32) = .ok (.csrrs 10#5 0#5 0x300#12) := by decide
theorem test_decode_csrrc : decode (.full 0x3045B073#32) = .ok (.csrrc 0#5 11#5 0x304#12) := by decide
theorem test_decode_csrrwi : decode (.full 0x3051D073#32) = .ok (.csrrwi 0#5 3#5 0x305#12) := by decide
theorem test_decode_csrrsi : decode (.full 0x34546573#32) = .ok (.csrrsi 10#5 8#5 0x345#12) := by decide
theorem test_decode_csrrci : decode (.full 0x30047073#32) = .ok (.csrrci 0#5 8#5 0x300#12) := by decide
theorem test_decode_mret : decode (.full 0x30200073#32) = .ok .mret := by decide
theorem test_decode_wfi : decode (.full 0x10500073#32) = .ok .wfi := by decide
theorem test_decode_dret : decode (.full 0x7B200073#32) = .ok .dret := by decide
theorem test_decode_mul : decode (.full 0x02C58533#32) = .ok (.mul 10#5 11#5 12#5) := by decide
theorem test_decode_mulh : decode (.full 0x02C59533#32) = .ok (.mulh 10#5 11#5 12#5) := by decide
theorem test_decode_mulhsu : decode (.full 0x02C5A533#32) = .ok (.mulhsu 10#5 11#5 12#5) := by decide
theorem test_decode_mulhu : decode (.full 0x02C5B533#32) = .ok (.mulhu 10#5 11#5 12#5) := by decide
theorem test_decode_div : decode (.full 0x02C5C533#32) = .ok (.div 10#5 11#5 12#5) := by decide
theorem test_decode_divu : decode (.full 0x02C5D533#32) = .ok (.divu 10#5 11#5 12#5) := by decide
theorem test_decode_rem : decode (.full 0x02C5E533#32) = .ok (.rem 10#5 11#5 12#5) := by decide
theorem test_decode_remu : decode (.full 0x02C5F533#32) = .ok (.remu 10#5 11#5 12#5) := by decide
theorem test_decode_cIllegal : decode (.half 0x0000#16) = .ok .cIllegal := by decide
theorem test_decode_cAddi4spn : decode (.half 0x1FE0#16) = .ok (.cAddi4spn 0#3 1020#10) := by decide
theorem test_decode_cLw : decode (.half 0x5CE0#16) = .ok (.cLw 0#3 1#3 124#7) := by decide
theorem test_decode_cSw : decode (.half 0xC1C8#16) = .ok (.cSw 2#3 3#3 4#7) := by decide
theorem test_decode_cNop : decode (.half 0x0001#16) = .ok (.cNop 0#6) := by decide
theorem test_decode_cAddi : decode (.half 0x157D#16) = .ok (.cAddi 10#5 (-1#6)) := by decide
theorem test_decode_cJal : decode (.half 0x2FFD#16) = .ok (.cJal 2046#12) := by decide
theorem test_decode_cLi : decode (.half 0x5501#16) = .ok (.cLi 10#5 (-32#6)) := by decide
theorem test_decode_cAddi16sp : decode (.half 0x7101#16) = .ok (.cAddi16sp (-512#10)) := by decide
theorem test_decode_cLui : decode (.half 0x657D#16) = .ok (.cLui 10#5 0x1F000#18) := by decide
theorem test_decode_cSrli : decode (.half 0x817D#16) = .ok (.cSrli 2#3 31#5) := by decide
theorem test_decode_cSrai : decode (.half 0x8511#16) = .ok (.cSrai 2#3 4#5) := by decide
theorem test_decode_cAndi : decode (.half 0x997D#16) = .ok (.cAndi 2#3 (-1#6)) := by decide
theorem test_decode_cSub : decode (.half 0x8D0D#16) = .ok (.cSub 2#3 3#3) := by decide
theorem test_decode_cXor : decode (.half 0x8D2D#16) = .ok (.cXor 2#3 3#3) := by decide
theorem test_decode_cOr : decode (.half 0x8D4D#16) = .ok (.cOr 2#3 3#3) := by decide
theorem test_decode_cAnd : decode (.half 0x8D6D#16) = .ok (.cAnd 2#3 3#3) := by decide
theorem test_decode_cJ : decode (.half 0xBFFD#16) = .ok (.cJ (-2#12)) := by decide
theorem test_decode_cBeqz : decode (.half 0xD101#16) = .ok (.cBeqz 2#3 (-256#9)) := by decide
theorem test_decode_cBnez : decode (.half 0xFCF5#16) = .ok (.cBnez 1#3 (-4#9)) := by decide
theorem test_decode_cSlli : decode (.half 0x0FFE#16) = .ok (.cSlli 31#5 31#5) := by decide
theorem test_decode_cLwsp : decode (.half 0x50FE#16) = .ok (.cLwsp 1#5 252#8) := by decide
theorem test_decode_cJr : decode (.half 0x8082#16) = .ok (.cJr 1#5) := by decide
theorem test_decode_cMv : decode (.half 0x852E#16) = .ok (.cMv 10#5 11#5) := by decide
theorem test_decode_cEbreak : decode (.half 0x9002#16) = .ok .cEbreak := by decide
theorem test_decode_cJalr : decode (.half 0x9502#16) = .ok (.cJalr 10#5) := by decide
theorem test_decode_cAdd : decode (.half 0x952E#16) = .ok (.cAdd 10#5 11#5) := by decide
theorem test_decode_cSwsp : decode (.half 0xC422#16) = .ok (.cSwsp 8#5 8#8) := by decide

/-- The first parcel lies at the lower address, its low byte first (20 R136). -/
theorem test_decode_bytes :
    decodeBytes [0x37#8, 0x55#8, 0x34#8, 0x12#8] = .ok (.lui 10#5 0x12345#20, []) ∧
      decodeBytes [0x7D#8, 0x15#8, 0x34#8] = .ok (.cAddi 10#5 (-1#6), [0x34#8]) := by decide

theorem test_decode_table_word :
    decodeTableWord 32 0x12345537 = some (.lui 10#5 0x12345#20) ∧
      decodeTableWord 16 0x157D = some (.cAddi 10#5 (-1#6)) ∧ decodeTableWord 32 0xFFFFFFFF = none := by decide

/-! ## One step of each instruction, with the values of the rules' examples (spec/40 to 45, 95) -/

theorem test_lui :
    regAfter (.lui 10#5 0x12345#20) (startAt 0x20000000#32 []) 10#5 = some 0x12345000#32 := by decide
theorem test_auipc :
    regAfter (.auipc 11#5 1#20) (startAt 0x20000010#32 []) 11#5 = some 0x20001010#32 := by decide
theorem test_jal :
    regAfter (.jal 1#5 2048#21) (startAt 0x20000000#32 []) 1#5 = some 0x20000004#32 ∧
      pcAfter (.jal 1#5 2048#21) (startAt 0x20000000#32 []) = some 0x20000800#32 := by decide
theorem test_jalr :
    regAfter (.jalr 1#5 10#5 4#12) (startAt 0x20000100#32 [(10#5, 0x20000201#32)]) 1#5 = some 0x20000104#32 ∧
      pcAfter (.jalr 1#5 10#5 4#12) (startAt 0x20000100#32 [(10#5, 0x20000201#32)]) = some 0x20000204#32 ∧
      pcAfter (.jalr 1#5 1#5 0#12) (startAt 0x20000000#32 [(1#5, 0x20000300#32)]) = some 0x20000300#32 := by decide
theorem test_beq :
    pcAfter (.beq 10#5 11#5 16#13) (startAt 0x20000000#32 [(10#5, 0x00000005#32), (11#5, 0x00000005#32)]) = some 0x20000010#32 ∧
      pcAfter (.beq 10#5 11#5 16#13) (startAt 0x20000000#32 [(10#5, 0x00000005#32), (11#5, 0x00000006#32)]) = some 0x20000004#32 := by decide
theorem test_bne :
    pcAfter (.bne 10#5 11#5 (-8#13)) (startAt 0x20000010#32 [(10#5, 0x00000001#32)]) = some 0x20000008#32 ∧
      pcAfter (.bne 10#5 11#5 (-8#13)) (startAt 0x20000010#32 []) = some 0x20000014#32 := by decide
theorem test_blt :
    pcAfter (.blt 10#5 11#5 4094#13) (startAt 0x20000000#32 [(10#5, 0xFFFFFFFF#32)]) = some 0x20000FFE#32 ∧
      pcAfter (.blt 10#5 11#5 4094#13) (startAt 0x20000000#32 []) = some 0x20000004#32 := by decide
theorem test_bge :
    pcAfter (.bge 10#5 11#5 (-4096#13)) (startAt 0x20002000#32 []) = some 0x20001000#32 ∧
      pcAfter (.bge 10#5 11#5 (-4096#13)) (startAt 0x20002000#32 [(10#5, 0x80000000#32)]) = some 0x20002004#32 := by decide
theorem test_bltu :
    pcAfter (.bltu 10#5 11#5 8#13) (startAt 0x20000000#32 [(10#5, 0x00000001#32), (11#5, 0xFFFFFFFF#32)]) = some 0x20000008#32 ∧
      pcAfter (.bltu 10#5 11#5 8#13) (startAt 0x20000000#32 [(10#5, 0x00000001#32)]) = some 0x20000004#32 := by decide
theorem test_bgeu :
    pcAfter (.bgeu 10#5 11#5 8#13) (startAt 0x20000000#32 [(11#5, 0x00000001#32)]) = some 0x20000004#32 ∧
      pcAfter (.bgeu 10#5 11#5 8#13) (startAt 0x20000000#32 [(10#5, 0xFFFFFFFF#32), (11#5, 0x00000001#32)]) = some 0x20000008#32 := by decide
theorem test_lb :
    regAfter (.lb 10#5 11#5 (-1#12)) (withBytes (startAt 0x20000000#32 [(11#5, 0x20000101#32)]) 0x20000100 [0x80#8]) 10#5 = some 0xFFFFFF80#32 := by decide
theorem test_lh :
    regAfter (.lh 10#5 11#5 2#12) (withBytes (startAt 0x20000000#32 [(11#5, 0x20000100#32)]) 0x20000102 [0x34#8, 0xF2#8]) 10#5 = some 0xFFFFF234#32 := by decide
theorem test_lw :
    regAfter (.lw 10#5 2#5 8#12) (withBytes (startAt 0x20000000#32 [(2#5, 0x20001000#32)]) 0x20001008 [0x78#8, 0x56#8, 0x34#8, 0x12#8]) 10#5 = some 0x12345678#32 := by decide
theorem test_lbu :
    regAfter (.lbu 10#5 11#5 0#12) (withBytes (startAt 0x20000000#32 [(11#5, 0x20000100#32)]) 0x20000100 [0x80#8]) 10#5 = some 0x00000080#32 := by decide
theorem test_lhu :
    regAfter (.lhu 10#5 11#5 2046#12) (withBytes (startAt 0x20000000#32 [(11#5, 0x20000000#32)]) 0x200007FE [0x34#8, 0xF2#8]) 10#5 = some 0x0000F234#32 := by decide
theorem test_cLw :
    regAfter (.cLw 2#3 3#3 4#7) (withBytes (startAt 0x20000000#32 [(11#5, 0x20000100#32)]) 0x20000104 [0x78#8, 0x56#8, 0x34#8, 0x12#8]) 10#5 = some 0x12345678#32 := by decide
theorem test_cLwsp :
    regAfter (.cLwsp 1#5 252#8) (withBytes (startAt 0x20000000#32 [(2#5, 0x20001000#32)]) 0x200010FC [0x01#8, 0x02#8, 0x03#8, 0x04#8]) 1#5 = some 0x04030201#32 := by decide
theorem test_sb :
    bytesAfter (.sb 10#5 11#5 (-1#12)) (startAt 0x20000000#32 [(10#5, 0x123456AB#32), (11#5, 0x20000101#32)]) 0x200000FF 3 = some [0x00#8, 0xAB#8, 0x00#8] := by decide
theorem test_sh :
    bytesAfter (.sh 10#5 11#5 2#12) (startAt 0x20000000#32 [(10#5, 0x123456AB#32), (11#5, 0x20000100#32)]) 0x20000101 4 = some [0x00#8, 0xAB#8, 0x56#8, 0x00#8] := by decide
theorem test_sw :
    bytesAfter (.sw 10#5 2#5 8#12) (startAt 0x20000000#32 [(10#5, 0x12345678#32), (2#5, 0x20001000#32)]) 0x20001008 4 = some [0x78#8, 0x56#8, 0x34#8, 0x12#8] := by decide
theorem test_cSw :
    bytesAfter (.cSw 2#3 3#3 4#7) (startAt 0x20000000#32 [(10#5, 0xDEADBEEF#32), (11#5, 0x20000100#32)]) 0x20000104 4 = some [0xEF#8, 0xBE#8, 0xAD#8, 0xDE#8] := by decide
theorem test_cSwsp :
    bytesAfter (.cSwsp 8#5 8#8) (startAt 0x20000000#32 [(8#5, 0x000000AA#32), (2#5, 0x20001000#32)]) 0x20001008 4 = some [0xAA#8, 0x00#8, 0x00#8, 0x00#8] := by decide
theorem test_addi :
    regAfter (.addi 10#5 11#5 (-1#12)) (startAt 0x20000000#32 [(11#5, 0x00000000#32)]) 10#5 = some 0xFFFFFFFF#32 := by decide
theorem test_slti :
    regAfter (.slti 10#5 11#5 (-5#12)) (startAt 0x20000000#32 [(11#5, 0xFFFFFFF0#32)]) 10#5 = some 0x00000001#32 := by decide
theorem test_sltiu :
    regAfter (.sltiu 10#5 11#5 1#12) (startAt 0x20000000#32 [(11#5, 0x00000000#32)]) 10#5 = some 0x00000001#32 := by decide
theorem test_xori :
    regAfter (.xori 10#5 11#5 (-1#12)) (startAt 0x20000000#32 [(11#5, 0x0F0F0F0F#32)]) 10#5 = some 0xF0F0F0F0#32 := by decide
theorem test_ori :
    regAfter (.ori 10#5 11#5 0x7F0#12) (startAt 0x20000000#32 [(11#5, 0x0000000F#32)]) 10#5 = some 0x000007FF#32 := by decide
theorem test_andi :
    regAfter (.andi 10#5 11#5 0xFF#12) (startAt 0x20000000#32 [(11#5, 0x12345678#32)]) 10#5 = some 0x00000078#32 := by decide
theorem test_slli :
    regAfter (.slli 10#5 11#5 31#5) (startAt 0x20000000#32 [(11#5, 0x00000003#32)]) 10#5 = some 0x80000000#32 := by decide
theorem test_srli :
    regAfter (.srli 10#5 11#5 4#5) (startAt 0x20000000#32 [(11#5, 0x80000010#32)]) 10#5 = some 0x08000001#32 := by decide
theorem test_srai :
    regAfter (.srai 10#5 11#5 4#5) (startAt 0x20000000#32 [(11#5, 0x80000010#32)]) 10#5 = some 0xF8000001#32 := by decide
theorem test_add :
    regAfter (.add 10#5 11#5 12#5) (startAt 0x20000000#32 [(11#5, 0x7FFFFFFF#32), (12#5, 0x00000001#32)]) 10#5 = some 0x80000000#32 := by decide
theorem test_sub :
    regAfter (.sub 10#5 11#5 12#5) (startAt 0x20000000#32 [(12#5, 0x00000001#32)]) 10#5 = some 0xFFFFFFFF#32 := by decide
theorem test_sll :
    regAfter (.sll 10#5 11#5 12#5) (startAt 0x20000000#32 [(11#5, 0x00000001#32), (12#5, 0x00000024#32)]) 10#5 = some 0x00000010#32 := by decide
theorem test_slt :
    regAfter (.slt 10#5 11#5 12#5) (startAt 0x20000000#32 [(11#5, 0x80000000#32), (12#5, 0x7FFFFFFF#32)]) 10#5 = some 0x00000001#32 := by decide
theorem test_sltu :
    regAfter (.sltu 10#5 11#5 12#5) (startAt 0x20000000#32 [(11#5, 0x80000000#32), (12#5, 0x7FFFFFFF#32)]) 10#5 = some 0x00000000#32 := by decide
theorem test_xor :
    regAfter (.xor 10#5 11#5 12#5) (startAt 0x20000000#32 [(11#5, 0xFF00FF00#32), (12#5, 0x0FF00FF0#32)]) 10#5 = some 0xF0F0F0F0#32 := by decide
theorem test_srl :
    regAfter (.srl 10#5 11#5 12#5) (startAt 0x20000000#32 [(11#5, 0x80000000#32), (12#5, 0x0000001F#32)]) 10#5 = some 0x00000001#32 := by decide
theorem test_sra :
    regAfter (.sra 10#5 11#5 12#5) (startAt 0x20000000#32 [(11#5, 0x80000000#32), (12#5, 0x0000001F#32)]) 10#5 = some 0xFFFFFFFF#32 := by decide
theorem test_or :
    regAfter (.or 10#5 11#5 12#5) (startAt 0x20000000#32 [(11#5, 0xF0000000#32), (12#5, 0x0000000F#32)]) 10#5 = some 0xF000000F#32 := by decide
theorem test_and :
    regAfter (.and 10#5 11#5 12#5) (startAt 0x20000000#32 [(11#5, 0xFF00FF00#32), (12#5, 0x0FF00FF0#32)]) 10#5 = some 0x0F000F00#32 := by decide
theorem test_mulh :
    regAfter (.mulh 10#5 11#5 12#5) (startAt 0x20000000#32 [(11#5, 0x80000000#32), (12#5, 0x80000000#32)]) 10#5 = some 0x40000000#32 := by decide
theorem test_mulhu :
    regAfter (.mulhu 10#5 11#5 12#5) (startAt 0x20000000#32 [(11#5, 0xFFFFFFFF#32), (12#5, 0xFFFFFFFF#32)]) 10#5 = some 0xFFFFFFFE#32 := by decide
theorem test_mul :
    regAfter (.mul 10#5 11#5 12#5) (startAt 0x20000000#32 [(11#5, 0x00010000#32), (12#5, 0x00010000#32)]) 10#5 = some 0x00000000#32 ∧
      regAfter (.mul 10#5 11#5 12#5) (startAt 0x20000000#32 [(11#5, 0x00000007#32), (12#5, 0xFFFFFFFD#32)]) 10#5 = some 0xFFFFFFEB#32 := by decide
theorem test_mulhsu :
    regAfter (.mulhsu 10#5 11#5 12#5) (startAt 0x20000000#32 [(11#5, 0xFFFFFFFF#32), (12#5, 0xFFFFFFFF#32)]) 10#5 = some 0xFFFFFFFF#32 ∧
      regAfter (.mulhsu 10#5 11#5 12#5) (startAt 0x20000000#32 [(11#5, 0x80000000#32), (12#5, 0xFFFFFFFF#32)]) 10#5 = some 0x80000000#32 := by decide
theorem test_div :
    regAfter (.div 10#5 11#5 12#5) (startAt 0x20000000#32 [(11#5, 0xFFFFFFF9#32), (12#5, 0x00000002#32)]) 10#5 = some 0xFFFFFFFD#32 ∧
      regAfter (.div 10#5 11#5 12#5) (startAt 0x20000000#32 [(11#5, 0x00000007#32)]) 10#5 = some 0xFFFFFFFF#32 ∧
      regAfter (.div 10#5 11#5 12#5) (startAt 0x20000000#32 [(11#5, 0x80000000#32), (12#5, 0xFFFFFFFF#32)]) 10#5 = some 0x80000000#32 := by decide
theorem test_divu :
    regAfter (.divu 10#5 11#5 12#5) (startAt 0x20000000#32 [(11#5, 0xFFFFFFF9#32), (12#5, 0x00000002#32)]) 10#5 = some 0x7FFFFFFC#32 ∧
      regAfter (.divu 10#5 11#5 12#5) (startAt 0x20000000#32 [(11#5, 0x00000007#32)]) 10#5 = some 0xFFFFFFFF#32 := by decide
theorem test_rem :
    regAfter (.rem 10#5 11#5 12#5) (startAt 0x20000000#32 [(11#5, 0xFFFFFFF9#32), (12#5, 0x00000002#32)]) 10#5 = some 0xFFFFFFFF#32 ∧
      regAfter (.rem 10#5 11#5 12#5) (startAt 0x20000000#32 [(11#5, 0x00000007#32), (12#5, 0xFFFFFFFE#32)]) 10#5 = some 0x00000001#32 ∧
      regAfter (.rem 10#5 11#5 12#5) (startAt 0x20000000#32 [(11#5, 0xFFFFFFF9#32)]) 10#5 = some 0xFFFFFFF9#32 := by decide
theorem test_remu :
    regAfter (.remu 10#5 11#5 12#5) (startAt 0x20000000#32 [(11#5, 0xFFFFFFF9#32), (12#5, 0x00000002#32)]) 10#5 = some 0x00000001#32 ∧
      regAfter (.remu 10#5 11#5 12#5) (startAt 0x20000000#32 [(11#5, 0xFFFFFFF9#32)]) 10#5 = some 0xFFFFFFF9#32 := by decide
theorem test_cAddi4spn :
    regAfter (.cAddi4spn 2#3 16#10) (startAt 0x20000000#32 [(2#5, 0x20001000#32)]) 10#5 = some 0x20001010#32 ∧
      pcAfter (.cAddi4spn 2#3 16#10) (startAt 0x20000000#32 []) = some 0x20000002#32 := by decide
theorem test_cAddi :
    regAfter (.cAddi 10#5 (-1#6)) (startAt 0x20000000#32 []) 10#5 = some 0xFFFFFFFF#32 := by decide
theorem test_cLi :
    regAfter (.cLi 10#5 (-32#6)) (startAt 0x20000000#32 []) 10#5 = some 0xFFFFFFE0#32 := by decide
theorem test_cAddi16sp :
    regAfter (.cAddi16sp (-512#10)) (startAt 0x20000000#32 [(2#5, 0x20001000#32)]) 2#5 = some 0x20000E00#32 := by decide
theorem test_cLui :
    regAfter (.cLui 10#5 0x1F000#18) (startAt 0x20000000#32 []) 10#5 = some 0x0001F000#32 := by decide
theorem test_cSrli :
    regAfter (.cSrli 2#3 31#5) (startAt 0x20000000#32 [(10#5, 0x80000001#32)]) 10#5 = some 0x00000001#32 := by decide
theorem test_cSrai :
    regAfter (.cSrai 2#3 4#5) (startAt 0x20000000#32 [(10#5, 0x80000000#32)]) 10#5 = some 0xF8000000#32 := by decide
theorem test_cSub :
    regAfter (.cSub 2#3 3#3) (startAt 0x20000000#32 [(10#5, 0x00000005#32), (11#5, 0x00000007#32)]) 10#5 = some 0xFFFFFFFE#32 := by decide
theorem test_cXor :
    regAfter (.cXor 2#3 3#3) (startAt 0x20000000#32 [(10#5, 0xFF00FF00#32), (11#5, 0x0FF00FF0#32)]) 10#5 = some 0xF0F0F0F0#32 := by decide
theorem test_cOr :
    regAfter (.cOr 2#3 3#3) (startAt 0x20000000#32 [(10#5, 0xFF00FF00#32), (11#5, 0x0FF00FF0#32)]) 10#5 = some 0xFFF0FFF0#32 := by decide
theorem test_cAnd :
    regAfter (.cAnd 2#3 3#3) (startAt 0x20000000#32 [(10#5, 0xFF00FF00#32), (11#5, 0x0FF00FF0#32)]) 10#5 = some 0x0F000F00#32 := by decide
theorem test_cMv :
    regAfter (.cMv 10#5 11#5) (startAt 0x20000000#32 [(11#5, 0x12345678#32)]) 10#5 = some 0x12345678#32 := by decide
theorem test_cAdd :
    regAfter (.cAdd 10#5 11#5) (startAt 0x20000000#32 [(10#5, 0xFFFFFFFF#32), (11#5, 0x00000002#32)]) 10#5 = some 0x00000001#32 := by decide
theorem test_cAndi :
    regAfter (.cAndi 0#3 15#6) (startAt 0x20000000#32 [(8#5, 0x12345678#32)]) 8#5 = some 0x00000008#32 := by decide
theorem test_cSlli :
    regAfter (.cSlli 10#5 1#5) (startAt 0x20000000#32 [(10#5, 0xC0000001#32)]) 10#5 = some 0x80000002#32 := by decide
theorem test_cNop :
    pcAfter (.cNop 0#6) (startAt 0x20000000#32 []) = some 0x20000002#32 := by decide
theorem test_cJal :
    regAfter (.cJal (-2048#12)) (startAt 0x20000800#32 []) 1#5 = some 0x20000802#32 ∧
      pcAfter (.cJal (-2048#12)) (startAt 0x20000800#32 []) = some 0x20000000#32 := by decide
theorem test_cJ :
    pcAfter (.cJ (-2#12)) (startAt 0x20000010#32 []) = some 0x2000000E#32 := by decide
theorem test_cBeqz :
    pcAfter (.cBeqz 2#3 8#9) (startAt 0x20000000#32 []) = some 0x20000008#32 ∧
      pcAfter (.cBeqz 2#3 8#9) (startAt 0x20000000#32 [(10#5, 0x00000001#32)]) = some 0x20000002#32 := by decide
theorem test_cBnez :
    pcAfter (.cBnez 2#3 254#9) (startAt 0x20000000#32 [(10#5, 0x00000001#32)]) = some 0x200000FE#32 ∧
      pcAfter (.cBnez 2#3 254#9) (startAt 0x20000000#32 []) = some 0x20000002#32 := by decide
theorem test_cJr :
    pcAfter (.cJr 1#5) (startAt 0x20000000#32 [(1#5, 0x20000105#32)]) = some 0x20000104#32 := by decide
theorem test_cJalr :
    regAfter (.cJalr 10#5) (startAt 0x20000010#32 [(10#5, 0x20000200#32)]) 1#5 = some 0x20000012#32 ∧
      pcAfter (.cJalr 1#5) (startAt 0x20000010#32 [(1#5, 0x20000200#32)]) = some 0x20000200#32 := by decide
theorem test_fence :
    pcAfter (.fence 0#4 3#4 1#4 0#5 0#5) (startAt 0x20000000#32 []) = some 0x20000004#32 := by decide
theorem test_fenceI :
    pcAfter (.fenceI 0#12 0#5 0#5) (startAt 0x20000000#32 []) = some 0x20000004#32 := by decide
/-- 43 R317: with the timer pending and enabled WFI retires, whatever MIE is; a stalled hart then takes the
interrupt with the address of the next instruction in `mepc`. -/
theorem test_wfi :
    pcAfter (.wfi) { startAt 0x20000000#32 [] with mieMtie := true } = some 0x20000004#32 ∧
    (after (step { startAt 0x20000000#32 [] with waiting := true, mieMtie := true, mstatusMie := true })).map
      (fun t => (t.waiting, t.mcauseCode, t.mepc, t.pc)) = some (false, 7#10, 0x20000004#32, 0x20000400#32) := by
  decide

/-- The examples of 43 R312, R313 and R318: the handler of these tests is at 0x20000400. -/
theorem test_ecall :
    trapAfter .ecall (startAt 0x20000040#32 []) = some (false, 11#10, 0x20000040#32, 0x20000400#32) := by decide
theorem test_ebreak :
    trapAfter .ebreak (startAt 0x20000040#32 []) = some (false, 3#10, 0x20000040#32, 0x20000400#32) := by decide
theorem test_cEbreak :
    trapAfter .cEbreak (startAt 0x20000040#32 []) = some (false, 3#10, 0x20000040#32, 0x20000400#32) := by decide
theorem test_dret :
    trapAfter .dret (startAt 0x20000040#32 []) = some (false, 2#10, 0x20000040#32, 0x20000400#32) := by decide
theorem test_cIllegal :
    trapAfter .cIllegal (startAt 0x20000040#32 []) = some (false, 2#10, 0x20000040#32, 0x20000400#32) := by decide
/-- The example of 43 R316. -/
theorem test_mret :
    (after (exec .mret { startAt 0x20000400#32 [] with mepc := 0x20000044#32, mstatusMpie := true })).map
      (fun t => (t.pc, t.mstatusMie, t.mstatusMpie)) = some (0x20000044#32, true, true) := by decide
/-- The example of 43 R320. -/
theorem test_csrrw :
    (after (exec (.csrrw 10#5 11#5 0x340#12)
      { startAt 0x20000000#32 [(11#5, 0x11111111#32)] with mscratch := 0x22222222#32 })).map
      (fun t => (readReg t 10#5, t.mscratch)) = some (0x22222222#32, 0x11111111#32) := by decide
/-- 43 R321 on `mstatus`, whose MPP reads 0b11 (10 R62). -/
theorem test_csrrs :
    regAfter (.csrrs 10#5 0#5 0x300#12) { startAt 0x20000000#32 [] with mstatusMie := true } 10#5 =
      some 0x00001808#32 := by decide
/-- The example of 43 R322. -/
theorem test_csrrc :
    (after (exec (.csrrc 0#5 11#5 0x304#12)
      { startAt 0x20000000#32 [(11#5, 0x80#32)] with mieMtie := true, mieMsie := true })).map
      (fun t => (t.mieMtie, t.mieMsie)) = some (false, true) := by decide
/-- The example of 43 R323. -/
theorem test_csrrwi :
    (after (exec (.csrrwi 0#5 3#5 0x305#12) (startAt 0x20000000#32 []))).map State.mtvec = some 3#32 := by decide
/-- The example of 43 R325. -/
theorem test_csrrci :
    (after (exec (.csrrci 0#5 8#5 0x300#12) { startAt 0x20000000#32 [] with mstatusMie := true })).map
      State.mstatusMie = some false := by decide

/-- A state in CLIC Direct mode with the CLIC software interrupt (ID 12) pending and enabled, level 255. -/
def csipPending : State :=
  { startAt 0x20000000#32 [] with
    mtvec := 0x20000402#32, mtvt := 0x20000800#32, mstatusMie := true,
    clic := { ClicRegs.reset with csip := true, ie := 1#49 <<< 12 } }

/-- The example of 43 R324: the address of entry 12 of the vector table, and the commit (60 R475). -/
theorem test_csrrsi :
    (after (exec (.csrrsi 10#5 8#5 0x345#12) { csipPending with mstatusMie := false })).map
      (fun t => (readReg t 10#5, t.mstatusMie, t.mil, t.mcauseCode)) =
      some (0x20000830#32, true, 255#8, 12#10) := by decide

/-- 95, reset values: `cliccfg` reads 0x00. -/
theorem test_cliccfg_reset :
    regAfter (.lbu 10#5 11#5 0#12) (startAt 0x20000000#32 [(11#5, 0x02800C00#32)]) 10#5 = some 0#32 := by decide

/-- The reserved bits 6:5 ignore a store and bit 7 keeps the 0 stored (61 R514). -/
theorem test_cliccfg_store :
    (after (exec (.sb 10#5 11#5 0#12) (startAt 0x20000000#32 [(10#5, 0x65#32), (11#5, 0x02800C00#32)]))).map
      (fun t => (t.clic.nvbits, t.clic.nlbits, t.clic.cliccfg7)) = some (true, 2#4, false) := by decide

/-- `csrsi mstatus, 8` and `csrci mstatus, 8` (60 R472). -/
theorem test_critical_section :
    (after (exec (.csrrsi 0#5 8#5 0x300#12) (startAt 0x20000000#32 []))).map State.mstatusMie = some true ∧
    regAfter (.csrrci 10#5 8#5 0x300#12) { startAt 0x20000000#32 [] with mstatusMie := true } 10#5 =
      some 0x00001808#32 := by decide

/-! ## Steps: fetch, interrupts, the stops -/

theorem test_step_runs_fetched :
    (after (step ((startAt 0x20000000#32 [(11#5, 7#32)]).withFetchWord 32 0xFFF58513))).map
      (fun t => (readReg t 10#5, t.pc)) = some (6#32, 0x20000004#32) ∧
    (after (step ((startAt 0x20000000#32 []).withFetchWord 16 0x157D))).map
      (fun t => (readReg t 10#5, t.pc)) = some (0xFFFFFFFF#32, 0x20000002#32) := by decide

/-- 95, T9: an unprogrammed `mtvec` leads to address 0, in the debug region. -/
theorem test_step_fetch_fault :
    (after (step { State.reset with pc := 0#32 })).map (fun t => (t.mcauseCode, t.mtval, t.pc)) =
      some (1#10, 0#32, 0#32) := by decide

/-- 95, E2: the timer interrupt in Vectored mode goes to BASE + 0x1C. -/
theorem test_step_timer_interrupt :
    (after (step { startAt 0x20000010#32 [] with
      mtvec := 0x20000401#32, mstatusMie := true, mieMtie := true, clic := ClicRegs.reset })).map
      (fun t => (t.mcauseInterrupt, t.mcauseCode, t.mepc, t.pc)) =
      some (true, 7#10, 0x20000010#32, 0x2000041C#32) := by decide

/-- A CLIC interrupt raises the level to its own (60 R446). -/
theorem test_step_clic_interrupt :
    (after (step csipPending)).map (fun t => (t.mil, t.mcauseMpil, t.mcauseCode, t.pc)) =
      some (255#8, 0#8, 12#10, 0x20000400#32) := by decide

/-- A load from a Reserved address traps with that address (20 R141). -/
theorem test_load_access_fault :
    (after (exec (.lw 10#5 11#5 0#12) (startAt 0x20000000#32 [(11#5, 0x40000000#32)]))).map
      (fun t => (t.mcauseCode, t.mtval)) = some (5#10, 0x40000000#32) := by decide

theorem test_store_misaligned :
    (after (exec (.sw 10#5 11#5 0#12) (startAt 0x20000000#32 [(11#5, 0x20000002#32)]))).map
      (fun t => (t.mcauseCode, t.mtval)) = some (6#10, 0x20000002#32) := by decide

/-! ## Witnesses: states and operands that meet the hypotheses of the obligations -/

/-- A state with registers that point into RAM, at both ends of the System Port, and to the CLIC. -/
def demo : State :=
  startAt 0x20000000#32
    [(2#5, 0x20001000#32), (8#5, 0x20000000#32), (9#5, 0x3FFFFFFC#32), (10#5, 0x1000#32), (11#5, 0x40000000#32),
      (12#5, 0x3FFFFFFF#32), (13#5, 0xFFF#32), (14#5, 0x20001002#32)]

/-- The same with a ROM, a range that answers with errors, and one whose store errors come late. -/
def demoPlatform : State :=
  { demo with platform :=
      [⟨0x20000000, 4, .rom⟩, ⟨0x20001000, 4, .error⟩, ⟨0x3FFFFFFC, 4, .errorLate⟩] }

/-- The same in CLIC Direct mode with the vector table at 0x20000800. -/
def demoClic : State := { demo with mtvec := 0x20000402#32, mtvt := 0x20000800#32 }

theorem witness_ShiftResults :
    0b0000001#7 ≠ 0b0000000#7 ∧ 0b1000000#7 ≠ 0b0000000#7 ∧ 0b0000001#7 ≠ 0b0100000#7 ∧
      0b1000000#7 ≠ 0b0100000#7 := by decide

theorem witness_DivideResults :
    (0x80000000#32 = readReg (startAt 0#32 [(1#5, 0x80000000#32), (2#5, 0xFFFFFFFF#32)]) 1#5 ∧
      0xFFFFFFFF#32 = readReg (startAt 0#32 [(1#5, 0x80000000#32), (2#5, 0xFFFFFFFF#32)]) 2#5) ∧
      (0x20001000#32 = readReg demo 2#5 ∧ 0#32 = readReg demo 0#5) := by decide

theorem witness_DivisionLaw :
    10#5 ≠ 0#5 ∧ 0x20001000#32 = readReg demo 2#5 ∧ 0x1000#32 = readReg demo 10#5 ∧ 0x1000#32 ≠ 0#32 ∧
      0 ≤ (0x20001000#32).toInt ∧ (0xFFFFFFFF#32).toInt < 0 ∧
      0xFFFFFFFF#32 = readReg (startAt 0#32 [(1#5, 0xFFFFFFFF#32)]) 1#5 := by decide

theorem witness_JumpResults : 0b001#3 ≠ 0b000#3 ∧ 0b111#3 ≠ 0b000#3 := by decide

theorem witness_BranchResults :
    0x20001000#32 = readReg demo 2#5 ∧ 0#32 = readReg demo 0#5 ∧
      0x1FFFF000#32 = BitVec.ofInt 32 (demo.pc.toInt + (0x1000#13).toInt) ∧ 0x20000004#32 = demo.pc + 4#32 := by
  decide

theorem demo_noTrigger (k : AccessKind) : NoTrigger demo k := by
  cases k <;> (unfold NoTrigger; decide)

theorem demoPlatform_noTrigger (k : AccessKind) : NoTrigger demoPlatform k := by
  cases k <;> (unfold NoTrigger; decide)

theorem demo_handlerAligned : HandlerAligned demo ∧ HandlerAligned demoPlatform ∧ HandlerAligned demoClic := by
  unfold HandlerAligned; decide

/-- The loads of RAM at both ends of the System Port, of ROM, and the two exceptions at the first and the last
address of the ranges. -/
theorem witness_LoadResults :
    (NoTrigger demo .load ∧ NoTrigger demoPlatform .load ∧ HandlerAligned demo ∧ HandlerAligned demoPlatform) ∧
    (0x20000000#32 = effectiveAddress demo 8#5 0#12 ∧ ReadablePort demo 0x20000000#32 ∧
      0x3FFFFFFF#32 = effectiveAddress demo 12#5 0#12 ∧ ReadablePort demo 0x3FFFFFFF#32 ∧
      0x20000000#32 = effectiveAddress demoPlatform 8#5 0#12 ∧ ReadablePort demoPlatform 0x20000000#32) ∧
    (0x3FFFFFFC#32 = cAddress demo 1#3 0#7 ∧ ReadablePort demo 0x3FFFFFFC#32 ∧ (0x3FFFFFFC#32).toNat % 4 = 0) ∧
    (0x20001004#32 = spAddress demo 4#8 ∧ ReadablePort demo 0x20001004#32 ∧ (0x20001004#32).toNat % 4 = 0) ∧
    (LoadsFrom demo (.lw 5#5 14#5 0#12) (effectiveAddress demo 14#5 0#12) .word ∧
      (effectiveAddress demo 14#5 0#12).toNat % Size.word.bytes ≠ 0) ∧
    (LoadsFrom demo (.lw 5#5 10#5 0#12) (effectiveAddress demo 10#5 0#12) .word ∧
      (effectiveAddress demo 10#5 0#12).toNat % Size.word.bytes = 0 ∧
      LoadFaults demo (effectiveAddress demo 10#5 0#12) ∧ LoadFaults demo (effectiveAddress demo 11#5 0#12) ∧
      LoadFaults demo (effectiveAddress demo 13#5 0#12) ∧
      LoadFaults demoPlatform (effectiveAddress demoPlatform 2#5 0#12) ∧
      LoadFaults demoPlatform (effectiveAddress demoPlatform 9#5 0#12)) := by
  refine ⟨⟨demo_noTrigger _, demoPlatform_noTrigger _, demo_handlerAligned.1, demo_handlerAligned.2.1⟩, ?_, ?_, ?_,
    ⟨.lw _ _ _, ?_⟩, .lw _ _ _, ?_, ?_⟩ <;>
    (try unfold ReadablePort) <;> (try unfold LoadFaults) <;> (try unfold InReserved InDebugRegion) <;>
    (try unfold InPort) <;> decide

theorem witness_StoreResults :
    (NoTrigger demo .store ∧ NoTrigger demoPlatform .store ∧ HandlerAligned demo ∧ HandlerAligned demoPlatform) ∧
    (0x20000000#32 = effectiveAddress demo 8#5 0#12 ∧ WritablePort demo 0x20000000#32 ∧
      0x3FFFFFFF#32 = effectiveAddress demo 12#5 0#12 ∧ WritablePort demo 0x3FFFFFFF#32 ∧
      0x1000#32 = readReg demo 10#5) ∧
    (0x3FFFFFFC#32 = cAddress demo 1#3 0#7 ∧ 0x20000000#32 = readReg demo (cReg 0#3) ∧
      WritablePort demo 0x3FFFFFFC#32 ∧ (0x3FFFFFFC#32).toNat % 4 = 0) ∧
    (0x20001004#32 = spAddress demo 4#8 ∧ WritablePort demo 0x20001004#32 ∧ (0x20001004#32).toNat % 4 = 0) ∧
    (StoresTo demo (.sw 5#5 14#5 0#12) (effectiveAddress demo 14#5 0#12) .word ∧
      (effectiveAddress demo 14#5 0#12).toNat % Size.word.bytes ≠ 0) ∧
    (StoresTo demo (.sw 5#5 10#5 0#12) (effectiveAddress demo 10#5 0#12) .word ∧
      (effectiveAddress demo 10#5 0#12).toNat % Size.word.bytes = 0 ∧
      StoreFaults demo (effectiveAddress demo 10#5 0#12) ∧ StoreFaults demo (effectiveAddress demo 11#5 0#12) ∧
      StoreFaults demo (effectiveAddress demo 13#5 0#12) ∧
      StoreFaults demoPlatform (effectiveAddress demoPlatform 2#5 0#12)) := by
  refine ⟨⟨demo_noTrigger _, demoPlatform_noTrigger _, demo_handlerAligned.1, demo_handlerAligned.2.1⟩, ?_, ?_, ?_,
    ⟨.sw _ _ _, ?_⟩, .sw _ _ _, ?_, ?_⟩ <;>
    (try unfold WritablePort) <;> (try unfold StoreFaults) <;> (try unfold InReserved InDebugRegion) <;>
    (try unfold InPort) <;> decide

theorem witness_OnlyStoresWriteMemory :
    (∀ a w, ¬ StoresTo demo (.addi 10#5 0#5 1#12) a w) ∧ ∃ t, exec (.addi 10#5 0#5 1#12) demo = .next t := by
  refine ⟨fun a w h => ?_, _, rfl⟩
  cases h

/-- The addresses of the CLIC's registers as register values. -/
def atClic (a : Word) : State := startAt 0x20000000#32 [(5#5, a), (6#5, 0xFFFFFFFF#32)]

theorem atClic_noTrigger (a : Word) (k : AccessKind) : NoTrigger (atClic a) k := by
  intro j
  fin_cases j <;> cases k <;> rfl

theorem witness_ClicReads :
    (∀ a, NoTrigger (atClic a) .load) ∧
    (0x02800000#32 = effectiveAddress (atClic 0x02800000#32) 5#5 0#12 ∧ (0x02800000#32).toNat = 0x02800000 + 0) ∧
    (0x0280002F#32 = effectiveAddress (atClic 0x0280002F#32) 5#5 0#12 ∧ (0x0280002F#32).toNat = 0x02800000 + 47) ∧
    (0x0280042F#32 = effectiveAddress (atClic 0x0280042F#32) 5#5 0#12 ∧ (0x0280042F#32).toNat = 0x02800400 + 47) ∧
    (0x02800803#32 = effectiveAddress (atClic 0x02800803#32) 5#5 0#12 ∧ (0x02800803#32).toNat = 0x02800800 + 3) ∧
    (0x02800C00#32 = effectiveAddress (atClic 0x02800C00#32) 5#5 0#12 ∧ (0x02800C00#32).toNat = 0x02800C00) ∧
    (0x02000000#32 = effectiveAddress (atClic 0x02000000#32) 5#5 0#12) ∧
    (0x02004000#32 = effectiveAddress (atClic 0x02004000#32) 5#5 0#12) ∧
    (0x02004004#32 = effectiveAddress (atClic 0x02004004#32) 5#5 0#12) ∧
    (0x0200BFF8#32 = effectiveAddress (atClic 0x0200BFF8#32) 5#5 0#12) ∧
    (0x0200BFFC#32 = effectiveAddress (atClic 0x0200BFFC#32) 5#5 0#12) ∧
    (LoadsFrom (atClic 0x0280002C#32) (.lw 7#5 5#5 0#12) (effectiveAddress (atClic 0x0280002C#32) 5#5 0#12) .word ∧
      LoadsInto (.lw 7#5 5#5 0#12) 7#5 ∧
      (effectiveAddress (atClic 0x0280002C#32) 5#5 0#12).toNat % Size.word.bytes = 0 ∧
      InClic (effectiveAddress (atClic 0x0280002C#32) 5#5 0#12) ∧
      ∀ k < Size.word.bytes, clicSlot Params.recommended ((effectiveAddress (atClic 0x0280002C#32) 5#5 0#12).toNat + k) ≠ none) := by
  refine ⟨fun a => atClic_noTrigger a _, ?_, ?_, ?_, ?_, ?_, ?_, ?_, ?_, ?_, ?_, .lw _ _ _, .lw _ _ _, ?_, ?_, ?_⟩ <;>
    (try unfold InClic) <;> decide

/-- The registers of interrupt 48 where it is implemented. -/
theorem witness_ClicReads_lint32 :
    let s : State := { atClic 0x02800030#32 with params := { Params.recommended with lint32 := true } }
    s.params.lint32 = true ∧ 0x02800030#32 = effectiveAddress s 5#5 0#12 ∧ (0x02800030#32).toNat = 0x02800000 + 48 := by
  decide

/-- A reserved ID, and no bits of reserved IDs set. -/
theorem witness_ClicReads_reserved :
    (atClic 0x02800404#32).clic.reservedZero (atClic 0x02800404#32).params ∧
      implementedId (atClic 0x02800404#32).params 4 = false ∧ (0x02800404#32).toNat = 0x02800400 + 4 ∧
      (0x02800804#32).toNat = 0x02800800 + 4 := by
  unfold ClicRegs.reservedZero
  decide

/-- A store to `cliccfg` that carries the bit 7 held. -/
theorem witness_ClicWrites_cliccfg7 :
    (readReg (atClic 0x02800C00#32) 0#5).getLsbD 7 = (atClic 0x02800C00#32).clic.cliccfg7 := by decide

theorem witness_ClicWrites :
    (∀ a, NoTrigger (atClic a) .store) ∧ 0xFFFFFFFF#32 = readReg (atClic 0x02800000#32) 6#5 ∧
    (0x02800007#32 = effectiveAddress (atClic 0x02800007#32) 5#5 0#12 ∧ (0x02800007#32).toNat = 0x02800000 + 7) ∧
    (0x0280000C#32 = effectiveAddress (atClic 0x0280000C#32) 5#5 0#12 ∧ (0x0280000C#32).toNat = 0x02800000 + 12) ∧
    (0x02800400#32 = effectiveAddress (atClic 0x02800400#32) 5#5 0#12 ∧ (0x02800400#32).toNat = 0x02800400 + 0) ∧
    (0x0280042F#32 = effectiveAddress (atClic 0x0280042F#32) 5#5 0#12 ∧ (0x0280042F#32).toNat = 0x02800400 + 47) ∧
    (0x0280082F#32 = effectiveAddress (atClic 0x0280082F#32) 5#5 0#12 ∧ (0x0280082F#32).toNat = 0x02800800 + 47) ∧
    (0x02800C00#32 = effectiveAddress (atClic 0x02800C00#32) 5#5 0#12 ∧ (0x02800C00#32).toNat = 0x02800C00) ∧
    (0x02004000#32 = effectiveAddress (atClic 0x02004000#32) 5#5 0#12) ∧
    (0x02004004#32 = effectiveAddress (atClic 0x02004004#32) 5#5 0#12) ∧
    (0x0200BFF8#32 = effectiveAddress (atClic 0x0200BFF8#32) 5#5 0#12) ∧
    (0x0200BFFC#32 = effectiveAddress (atClic 0x0200BFFC#32) 5#5 0#12) ∧
    (StoresTo (atClic 0x02000002#32) (.sh 6#5 5#5 0#12) (effectiveAddress (atClic 0x02000002#32) 5#5 0#12) .half ∧
      (effectiveAddress (atClic 0x02000002#32) 5#5 0#12).toNat % Size.half.bytes = 0 ∧
      InClic (effectiveAddress (atClic 0x02000002#32) 5#5 0#12) ∧
      ∀ k < Size.half.bytes, clicSlot Params.recommended ((effectiveAddress (atClic 0x02000002#32) 5#5 0#12).toNat + k) ≠ none) := by
  refine ⟨fun a => atClic_noTrigger a _, ?_, ?_, ?_, ?_, ?_, ?_, ?_, ?_, ?_, ?_, ?_, .sh _ _ _, ?_, ?_, ?_⟩ <;>
    (try unfold InClic) <;> decide

theorem witness_MsipIsOneBit :
    (∀ a k, NoTrigger (atClic a) k) ∧ 0x02000000#32 = effectiveAddress (atClic 0x02000000#32) 5#5 0#12 ∧
      0x02800003#32 = effectiveAddress (atClic 0x02800003#32) 5#5 0#12 ∧
      0xFFFFFFFF#32 = readReg (atClic 0x02800003#32) 6#5 ∧ clicMode (atClic 0x02000000#32) = false :=
  ⟨atClic_noTrigger, by decide⟩

/-- The last parcel of the System Port begins a 32-bit instruction whose second parcel lies behind it. -/
def atLastParcel : State := withBytes (startAt 0x3FFFFFFE#32 []) 0x3FFFFFFE [0x13#8]

theorem witness_FetchAccessFaults :
    (NoTrigger (startAt 0#32 []) .fetch ∧ HandlerAligned (startAt 0#32 []) ∧
      FetchFaults (startAt 0#32 []) 0#32 ∧ FetchFaults (startAt 0xFFE#32 []) 0xFFE#32 ∧
      FetchFaults (startAt 0x1000#32 []) 0x1000#32 ∧ FetchFaults (startAt 0x02000000#32 []) 0x02000000#32 ∧
      FetchFaults (startAt 0x02FFFFFE#32 []) 0x02FFFFFE#32 ∧ FetchFaults (startAt 0x40000000#32 []) 0x40000000#32) ∧
    (NoTrigger atLastParcel .fetch ∧ HandlerAligned atLastParcel ∧ ReadablePort atLastParcel atLastParcel.pc ∧
      parcelIsFull (parcelAt atLastParcel atLastParcel.pc.toNat) = true ∧
      FetchFaults atLastParcel (atLastParcel.pc + 2#32)) := by
  refine ⟨⟨?_, ?_, ?_, ?_, ?_, ?_, ?_, ?_⟩, ?_, ?_, ?_, ?_, ?_⟩ <;>
    (try unfold NoTrigger) <;> (try unfold HandlerAligned) <;> (try unfold ReadablePort) <;>
    (try unfold FetchFaults LoadFaults InClic InReserved InDebugRegion) <;> (try unfold InPort) <;> decide

theorem witness_TrapLoopAtZero :
    let s : State := { State.reset with pc := 0#32 }
    s.debugMode = false ∧ s.waiting = false ∧ s.dcsrStep = false ∧ s.pc = 0#32 ∧ s.mtvec = 0#32 ∧ s.mstatusMie = false ∧ NoTrigger s .fetch := by
  unfold NoTrigger; decide

theorem witness_StoreThenFetch :
    demo.unfenced = [] ∧
      StoresTo demo (.sw 10#5 8#5 0#12) (effectiveAddress demo 8#5 0#12) .word ∧
      ∃ t, exec (.sw 10#5 8#5 0#12) demo = .next t ∧ t.unfenced ≠ [] := by
  refine ⟨by decide, .sw _ _ _, _, rfl, by decide⟩

/-- A hart stalled in WFI that a pending and enabled timer interrupt wakes, not taken with MIE = 0 and taken with
MIE = 1. -/
def stalled (mie : Bool) : State := { demo with waiting := true, mieMtie := true, mstatusMie := mie }

theorem witness_FenceIAndWfi :
    ∀ mie, (stalled mie).waiting = true ∧ (stalled mie).debugMode = false ∧ (stalled mie).dcsrStep = false ∧
      (stalled mie).pc.getLsbD 0 = false ∧ wakeUp (passBoundary (stalled mie)) = true ∧
      interruptDecision { passBoundary (stalled mie) with waiting := false, pc := 0x20000004#32 } =
        if mie then .take 7 else .noInterrupt := by decide

theorem witness_EcallTraps : HandlerAligned demo ∧ HandlerAligned demoClic :=
  ⟨demo_handlerAligned.1, demo_handlerAligned.2.2⟩

theorem witness_EbreakTraps :
    demo.dcsrEbreakm = false ∧ HandlerAligned demo ∧
      ({ demo with dcsrEbreakm := true } : State).dcsrEbreakm = true :=
  ⟨by decide, demo_handlerAligned.1, rfl⟩

theorem witness_DretOutcome :
    demo.debugMode = false ∧ HandlerAligned demo ∧ ({ demo with debugMode := true } : State).debugMode = true :=
  ⟨by decide, demo_handlerAligned.1, rfl⟩

theorem witness_UndecodedWordsTrap :
    HandlerAligned demo ∧ (∃ err, decode (.half 0x8000#16) = .error err) ∧
      ∃ err, decode (.full 0x0000007F#32) = .error err :=
  ⟨demo_handlerAligned.1, ⟨_, rfl⟩, ⟨_, rfl⟩⟩

/-- One word for each clause: quadrants 0, 1 and 2, the absent major opcodes, LD, LWU, SD, SRET. -/
theorem witness_ReservedEncodingsTrap :
    HandlerAligned demo ∧
    ((0x001C#16).extractLsb' 0 2 = 0b00#2 ∧ (0x001C#16).extractLsb' 13 3 = 0b000#3 ∧
      (0x001C#16).extractLsb' 5 8 = 0#8) ∧
    ((0x8000#16).extractLsb' 0 2 = 0b00#2 ∧ (0x8000#16).extractLsb' 13 3 = 0b100#3) ∧
    ((0xE000#16).extractLsb' 0 2 = 0b00#2 ∧ (0xE000#16).extractLsb' 13 3 = 0b111#3) ∧
    ((0x6081#16).extractLsb' 0 2 = 0b01#2 ∧ (0x6081#16).extractLsb' 13 3 = 0b011#3 ∧
      (0x6081#16).extractLsb' 12 1 = 0#1 ∧ (0x6081#16).extractLsb' 2 5 = 0#5) ∧
    ((0x9C01#16).extractLsb' 0 2 = 0b01#2 ∧ (0x9C01#16).extractLsb' 13 3 = 0b100#3 ∧
      (0x9C01#16).extractLsb' 10 3 = 0b111#3) ∧
    ((0x9001#16).extractLsb' 0 2 = 0b01#2 ∧ (0x9001#16).extractLsb' 13 3 = 0b100#3 ∧
      (0x9001#16).extractLsb' 11 1 = 0#1 ∧ (0x9001#16).extractLsb' 12 1 = 1#1) ∧
    ((0x4002#16).extractLsb' 0 2 = 0b10#2 ∧ (0x4002#16).extractLsb' 13 3 = 0b010#3 ∧
      (0x4002#16).extractLsb' 7 5 = 0#5) ∧
    ((0x1002#16).extractLsb' 0 2 = 0b10#2 ∧ (0x1002#16).extractLsb' 13 3 = 0b000#3 ∧
      (0x1002#16).extractLsb' 12 1 = 1#1) ∧
    ((0x1000202F#32).extractLsb' 0 7 = 0b0101111#7) ∧
    ((0x00003003#32).extractLsb' 0 7 = 0b0000011#7 ∧ (0x00003003#32).extractLsb' 12 3 = 0b011#3) ∧
    ((0x00003023#32).extractLsb' 0 7 = 0b0100011#7 ∧ (0x00003023#32).extractLsb' 12 3 = 0b011#3) ∧
    ((0x10200073#32).extractLsb' 0 7 = 0b1110011#7 ∧ (0x10200073#32).extractLsb' 12 3 = 0b000#3 ∧
      0x10200073#32 ∉ [0x00000073#32, 0x00100073#32, 0x30200073#32, 0x10500073#32, 0x7B200073#32]) :=
  ⟨demo_handlerAligned.1, by decide⟩

theorem witness_TrapEntry :
    (HandlerAligned demo ∧ clicMode demo = false) ∧
    (HandlerAligned demoClic ∧ clicMode demoClic = true ∧ hardwareVectored demoClic 48 = false) ∧
    (HandlerAligned { demoClic with mtvec := 0x20000403#32 } ∧
      clicMode { demoClic with mtvec := 0x20000403#32 } = true ∧
      hardwareVectored { demoClic with mtvec := 0x20000403#32 } 48 = true ∧
      demoClic.mtvt.toNat % 64 = 0 ∧ 0x200008C0#32 = demoClic.mtvt + BitVec.ofNat 32 (4 * 48) ∧
      ReadablePort { demoClic with mtvec := 0x20000403#32 } 0x200008C0#32) := by
  unfold HandlerAligned ReadablePort InPort
  decide

theorem witness_MretRestores :
    (clicMode { demoClic with mcauseMinhv := true } = true ∧
      ({ demoClic with mcauseMinhv := true } : State).mcauseMinhv = true) ∧
    ¬ (clicMode demoClic = true ∧ demoClic.mcauseMinhv = true) ∧
    ¬ (clicMode { demo with mcauseMinhv := true } = true ∧
      ({ demo with mcauseMinhv := true } : State).mcauseMinhv = true) ∧
    legalCause demoClic.params demoClic.mcauseInterrupt demoClic.mcauseCode = true ∧
    legalCause demoClic.params true 48#10 = false ∧ legalCause { demoClic.params with lint32 := true } true 48#10 = true ∧
    legalCause demoClic.params false 8#10 = false := by decide

theorem witness_TrapThenMretResumes :
    HandlerAligned demoClic ∧ demoClic.mcauseMinhv = false ∧
      implementedId demoClic.params 47 = true ∧ ∃ t, takeInterrupt demoClic 47 = .next t :=
  ⟨demo_handlerAligned.2.2, by decide, by decide, _, rfl⟩

theorem witness_CsrFormsOnMscratch :
    0x20001000#32 = readReg demo 2#5 ∧ 0#32 = demo.mscratch ∧ 0#32 = readReg demo 0#5 := by decide

/-- One access for each check. -/
theorem witness_CsrChecks :
    HandlerAligned demo ∧
    (AccessesCsr (.csrrs 5#5 0#5 0x7C0#12) 0x7C0#12 (0#5 != 0#5) ∧ csrOf 0x7C0#12 = none) ∧
    (AccessesCsr (.csrrwi 5#5 0#5 0x7B1#12) 0x7B1#12 true ∧ 0x7B0 ≤ (0x7B1#12).toNat ∧ (0x7B1#12).toNat ≤ 0x7BF ∧
      demo.debugMode = false) ∧
    (AccessesCsr (.csrrci 5#5 1#5 0xF14#12) 0xF14#12 (1#5 != 0#5) ∧ (1#5 != 0#5) = true ∧
      (0xF14#12).extractLsb' 10 2 = 0b11#2) ∧
    (AccessesCsr (.csrrc 5#5 0#5 0x7A1#12) 0x7A1#12 (0#5 != 0#5) ∧
      (({ demo with triggers := Vector.replicate 4 { Trigger.reset with dmode := true } } : State).triggers.get
        demo.tselect.toFin).dmode = true) ∧
    (AccessesCsr (.csrrsi 5#5 31#5 0x344#12) 0x344#12 (31#5 != 0#5) ∧ CsrInto (.csrrsi 5#5 31#5 0x344#12) 5#5 ∧
      csrOf 0x344#12 = some .mip ∧ csrOf 0x346#12 = some .mintstatus ∧ csrOf 0x301#12 = some .misa) :=
  ⟨demo_handlerAligned.1, ⟨.csrrs _ _ _, by decide⟩, ⟨.csrrwi _ _ _, by decide⟩, ⟨.csrrci _ _ _, by decide⟩,
    ⟨.csrrc _ _ _, by decide⟩, .csrrsi _ _ _, .csrrsi _ _ _, by decide⟩

theorem witness_MstatusAccess : 0x20001000#32 = readReg demo 2#5 := by decide

theorem witness_MieAndMip :
    0x20001000#32 = readReg demo 2#5 ∧ clicMode demo = false ∧ clicMode demoClic = true := by decide

/-- A state in which the image of level 63 has been read, and the value that holds this image. -/
def level63Seen : State := { demoClic with mpilSeen := 0x8#16 }

theorem image_of_63 :
    (0#4 ++ mpilImageOf 63#8 ++ 0#24 : Word).getLsbD 30 = false ∧
    levelOfImage ((0#4 ++ mpilImageOf 63#8 ++ 0#24 : Word).extractLsb' 24 4) = some 63#8 := by
  constructor
  · generalize mpilImageOf 63#8 = v
    revert v
    decide
  · have h : (0#4 ++ mpilImageOf 63#8 ++ 0#24 : Word).extractLsb' 24 4 = mpilImageOf 63#8 := by
      generalize mpilImageOf 63#8 = v
      revert v
      decide
    rw [h]
    simp [levelOfImage, mpilImageOf]

theorem witness_McauseAccess :
    legalCause demo.params demo.mcauseInterrupt demo.mcauseCode = true ∧ legalCause demo.params true 47#10 = true ∧
    clicMode demo = false ∧ legalCause demo.params true 48#10 = false ∧ 5#5 ≠ 0#5 ∧
    (clicMode level63Seen = true ∧ level63Seen.mpilSeen.getLsbD ((63#8).toNat / 16) = true ∧
      (0#4 ++ mpilImageOf 63#8 ++ 0#24 : Word).getLsbD 30 = false ∧
      levelOfImage ((0#4 ++ mpilImageOf 63#8 ++ 0#24 : Word).extractLsb' 24 4) = some 63#8) ∧
    (clicMode demoClic = true ∧
      ∀ level, levelOfImage ((0#4 ++ mpilImageOf 63#8 ++ 0#24 : Word).extractLsb' 24 4) = some level →
        demoClic.mpilSeen.getLsbD (level.toNat / 16) = false) ∧
    (0x40000000#32).getLsbD 30 = true :=
  ⟨by decide, by decide, by decide, by decide, by decide, ⟨by decide, by decide, image_of_63⟩,
    ⟨by decide, fun level h => by rw [image_of_63.2] at h; cases h; decide⟩, by decide⟩

theorem witness_McauseRoundTrip :
    (5#5 ≠ 0#5 ∧ legalLevel demo.mcauseMpil = true ∧ demo.mcauseMinhv = false ∧
      legalCause demo.params demo.mcauseInterrupt demo.mcauseCode = true ∧ clicMode demo = false) ∧
    (legalLevel { demoClic with mcauseMpil := 127#8 }.mcauseMpil = true ∧ clicMode demoClic = true ∧
      ∀ t : State, ∃ later : State, readReg later 5#5 = readReg t 5#5 ∧ clicMode later = true ∧
        later.mcauseMpil = 63#8 ∧ later.mpilSeen &&& t.mpilSeen = t.mpilSeen) :=
  ⟨by decide, by decide, by decide, fun t =>
    ⟨{ demoClic with x := t.x, mcauseMpil := 63#8, mpilSeen := t.mpilSeen }, rfl,
      (by decide : demoClic.mtvec.getLsbD 1 = true), rfl, by simp⟩⟩

theorem witness_PlainCsrs :
    demo.mtvt.toNat % 64 = 0 ∧ HandlerAligned demo ∧ demo.mstatusMie = false ∧
    (({ demo with mstatusMie := true } : State).mstatusMie = true ∧ demo.mtvec.getLsbD 1 = (readReg demo 2#5).getLsbD 1 ∧
      demo.mtvec.getLsbD 1 ≠ (readReg demo 14#5).getLsbD 1) ∧
    ((0xB03 ≤ (0xB03#12).toNat ∧ (0xB1F#12).toNat ≤ 0xB1F) ∧ (0xB83 ≤ (0xB83#12).toNat ∧ (0xB9F#12).toNat ≤ 0xB9F) ∧
      (0x323 ≤ (0x323#12).toNat ∧ (0x33F#12).toNat ≤ 0x33F)) :=
  ⟨by decide, demo_handlerAligned.1, by decide⟩

theorem witness_CounterAccess : 0x20001000#32 = readReg demo 2#5 ∧ 0xC82#12 = 0xC82#12 := by decide

/-- A state that counts 1 cycle at the next boundary, with `csrrw x0, mcycle, x0` at the pc. -/
def atMcycle : State :=
  let s := startAt 0x20000000#32 []
  { s.withFetchWord 32 0xB0001073 with
    mcycleBase := 1#64 - BitVec.ofNat 64 (cyclesBefore (s.boundary + 1)) }

/-- A step that sets where `mcycle` counts from, and a run that leaves it. -/
theorem witness_CounterAccess_steps :
    (∃ t, step atMcycle = .next t ∧ t.mcycleBase ≠ atMcycle.mcycleBase) ∧
    (∃ t, Reaches (demo.withFetchWord 32 0xFFF58513) t ∧ t.mcycleBase = (demo.withFetchWord 32 0xFFF58513).mcycleBase) := by
  refine ⟨⟨_, rfl, ?_⟩, _, .step rfl (.refl _), rfl⟩
  show ((1#64 - BitVec.ofNat 64 (cyclesBefore 1) + BitVec.ofNat 64 (cyclesBefore 1)).extractLsb' 32 32 ++ 0#32 : BitVec 64) -
    BitVec.ofNat 64 (cyclesBefore 1) ≠ 1#64 - BitVec.ofNat 64 (cyclesBefore 1)
  generalize BitVec.ofNat 64 (cyclesBefore 1) = c
  rw [BitVec.sub_add_cancel, show ((1#64).extractLsb' 32 32 ++ 0#32 : BitVec 64) = 0#64 by decide]
  intro h
  bv_omega

theorem witness_LevelChangesOnlyBy :
    (∃ t, exec .mret { csipPending with mcauseMpil := 255#8 } = .next t ∧ t.mil ≠ csipPending.mil) ∧
    (∃ t, exec (.csrrsi 10#5 8#5 0x345#12) csipPending = .next t ∧ t.mil ≠ csipPending.mil) ∧
    (∃ t, takeInterrupt csipPending 12 = .next t ∧ t.mil ≠ csipPending.mil) ∧
    (∃ t, takeException csipPending .breakpoint 0#32 = .next t) :=
  ⟨⟨_, rfl, by decide⟩, ⟨_, rfl, by decide⟩, ⟨_, rfl, by decide⟩, ⟨_, rfl⟩⟩

theorem witness_MnxtiAccess :
    (clicMode demoClic = true ∧ winner demoClic = none) ∧
    (clicMode { csipPending with mcauseMpil := 255#8 } = true ∧
      winner { csipPending with mcauseMpil := 255#8 } = some 12 ∧
      nlbitsSeen { csipPending with mcauseMpil := 255#8 } ≤ 2#4 ∧
      hardwareVectored { csipPending with mcauseMpil := 255#8 } 12 = false ∧
      levelSeen { csipPending with mcauseMpil := 255#8 } 12 ≤ 255#8) ∧
    (clicMode csipPending = true ∧ winner csipPending = some 12 ∧ nlbitsSeen csipPending ≤ 2#4 ∧
      hardwareVectored csipPending 12 = false ∧ csipPending.mcauseMpil < levelSeen csipPending 12 ∧
      csipPending.mtvt.toNat % 64 = 0) := by decide

theorem witness_MnxtiRefused :
    1#5 ≠ 0#5 ∧ clicMode demo = false ∧
    (clicMode { csipPending with mtvec := 0x20000403#32 } = true ∧
      winner { csipPending with mtvec := 0x20000403#32 } = some 12 ∧
      nlbitsSeen { csipPending with mtvec := 0x20000403#32 } ≤ 2#4 ∧
      hardwareVectored { csipPending with mtvec := 0x20000403#32 } 12 = true) := by decide

theorem witness_PendingSources :
    demo.clicOld = [] ∧ implementedId demo.params 13 = false ∧ implementedId demo.params 48 = false ∧
      implementedId demo.params 47 = true ∧ implementedId { demo.params with lint32 := true } 48 = true ∧
      implementedId { demo.params with lint32 := true } 49 = false := by decide

/-- Outside CLIC mode with MIE = 1: all three sources pending and enabled, then all but the first, and so on. -/
def basicPending (mei msi mti : Bool) : State :=
  { startAt 0x20000010#32 [] with
    mstatusMie := true, mieMeie := mei, mieMsie := msi, mieMtie := mti, meipWire := true,
    clic := { ClicRegs.reset with msip := true } }

theorem witness_BasicInterrupts :
    (∀ a b c, (basicPending a b c).debugMode = false ∧ (basicPending a b c).waiting = false ∧
      (basicPending a b c).dcsrStep = false ∧ (basicPending a b c).pc.getLsbD 0 = false ∧
      (basicPending a b c).mtvec.extractLsb' 2 4 = 0#4 ∧ (basicPending a b c).mstatusMie = true ∧
      clicMode (basicPending a b c) = false ∧ pendingSeen (passBoundary (basicPending a b c)) 11 = true ∧
      pendingSeen (passBoundary (basicPending a b c)) 3 = true ∧
      pendingSeen (passBoundary (basicPending a b c)) 7 = true) ∧
    ((basicPending true true true).mieMeie = true) ∧
    ((basicPending false true true).mieMeie = false ∧ (basicPending false true true).mieMsie = true) ∧
    ((basicPending false false true).mieMsie = false ∧ (basicPending false false true).mieMtie = true) ∧
    ((basicPending false false false).mieMtie = false) ∧ demo.mstatusMie = false := by decide

theorem witness_ClicInterrupts :
    (csipPending.debugMode = false ∧ csipPending.waiting = false ∧ csipPending.dcsrStep = false ∧
      csipPending.pc.getLsbD 0 = false ∧ csipPending.mtvec.extractLsb' 2 4 = 0#4 ∧
      clicMode csipPending = true ∧ nlbitsSeen (passBoundary csipPending) ≤ 2#4) ∧
    (winner (passBoundary csipPending) = some 12 ∧ csipPending.mstatusMie = true ∧
      csipPending.mil < levelSeen (passBoundary csipPending) 12 ∧
      hardwareVectored (passBoundary csipPending) 12 = false) ∧
    (winner (passBoundary demoClic) = none) ∧
    (winner (passBoundary { csipPending with mil := 255#8 }) = some 12 ∧
      levelSeen (passBoundary { csipPending with mil := 255#8 }) 12 ≤ 255#8) := by decide

theorem witness_WinnerIsGreatest :
    winner demo = none ∧ winner csipPending = some 12 ∧
      (implementedId csipPending.params 12 = true ∧ pendingSeen csipPending 12 = true ∧ enabledSeen csipPending 12 = true) := by decide

/-- Whichever the parameter SHV_BIT_IN_PRIORITY is, one of the two clauses applies to `nvbits` = 1. -/
theorem witness_LevelTable :
    (Config.shvBitInPriority = false ∨ Config.shvBitInPriority = true) ∧
    (csipPending.mstatusMie = true ∧
      clicMode { csipPending with clic := { csipPending.clic with nlbits := 3#4 } } = true ∧
      winner { csipPending with clic := { csipPending.clic with nlbits := 3#4 } } = some 12 ∧
      2#4 < nlbitsSeen { csipPending with clic := { csipPending.clic with nlbits := 3#4 } }) :=
  ⟨by cases Config.shvBitInPriority <;> decide, by decide⟩

/-- One trigger, number `j`, with every kind of access enabled and an exact match on `a`. -/
def oneTrigger (s : State) (j : Fin 4) (a : Word) (actionDebug : Bool) : State :=
  { s with
    triggers := s.triggers.set j
      { Trigger.reset with r := true, w := true, x := true, m := true, actionDebug := actionDebug, tdata2 := a } }

theorem witness_TriggerBreakpoint :
    ∀ (j : Fin 4) (d mie : Bool), let s := oneTrigger { demo with mstatusMie := mie } j 0x20000000#32 d
      s.debugMode = false ∧ s.mtvec.extractLsb' 2 4 = 0#4 ∧ (s.triggers.get j).enabledFor .load = true ∧
      (s.triggers.get j).enabledFor .store = true ∧ (s.triggers.get j).enabledFor .fetch = true ∧
      (s.triggers.get j).matchType = 0#2 ∧ (s.triggers.get j).tdata2 = 0x20000000#32 ∧
      (s.triggers.get j).chain = false ∧ (∀ l, l ≠ j → (s.triggers.get l).enabledFor .load = false) ∧
      (∀ l : Fin 4, l.val + 1 = j.val → (s.triggers.get l).chain = false) ∧
      (s.triggers.get j).actionDebug = d ∧ s.mstatusMie = mie ∧ 0x20000000#32 = s.pc ∧
      effectiveAddress s 8#5 0#12 = 0x20000000#32 := by decide

/-- Triggers 2 and 3 chained to the range from 0x20000000 to below 0x20000008. -/
def chained : State :=
  { demo with
    mstatusMie := true
    triggers := (demo.triggers.set 2
      { Trigger.reset with r := true, m := true, matchType := 2#2, chain := true, tdata2 := 0x20000000#32 }).set 3
      { Trigger.reset with r := true, m := true, matchType := 3#2, tdata2 := 0x20000008#32 } }

theorem witness_TriggerChainRange :
    chained.debugMode = false ∧ chained.mstatusMie = true ∧ chained.triggers[2].enabledFor .load = true ∧
      chained.triggers[3].enabledFor .load = true ∧ chained.triggers[2].matchType = 2#2 ∧
      chained.triggers[3].matchType = 3#2 ∧ chained.triggers[2].chain = true ∧ chained.triggers[3].chain = false ∧
      chained.triggers[3].actionDebug = false ∧ (0x20000007#32).toNat + 1 ≤ 2 ^ 32 ∧
      (∀ l : Fin 4, l.val ≠ 2 → l.val ≠ 3 → (chained.triggers.get l).enabledFor .load = false) ∧
      (∀ l : Fin 4, l.val + 1 = 2 → (chained.triggers.get l).chain = false) ∧
      (chained.triggers[2].tdata2.toNat ≤ (0x20000000#32).toNat ∧
        (0x20000007#32).toNat < chained.triggers[3].tdata2.toNat) ∧
      ((0x1FFFFFFC#32).toNat + 4 ≤ chained.triggers[2].tdata2.toNat) ∧
      chained.triggers[3].tdata2.toNat ≤ (0x20000008#32).toNat := by decide

/-- Trigger 3 asks for a range of 32 bytes. -/
def bigRange : State :=
  { demo with
    triggers := demo.triggers.set 3
      { Trigger.reset with w := true, m := true, matchType := 1#2, tdata2 := 0x2000000F#32 } }

theorem witness_NapotRanges :
    (∀ k < 4, (BitVec.ofNat 32 (0x20000000 + 2 ^ k - 1)).toNat % 2 ^ (k + 1) = 2 ^ k - 1) ∧
    (bigRange.debugMode = false ∧ (bigRange.triggers.get 3).enabledFor .store = true ∧
      (bigRange.triggers.get 3).matchType = 1#2 ∧ (bigRange.triggers.get 3).tdata2.toNat % 16 = 15) := by decide

theorem witness_TriggerCsrs :
    demo.debugMode = false ∧ (3#32).toNat < 4 ∧ (demo.triggers.get demo.tselect.toFin).dmode = false ∧
      ((0x000009C7#32).extractLsb' 9 2 = 0#2 ∧ (0x000009C7#32).extractLsb' 12 4 = 0#4 ∧
        (0x000009C7#32).getLsbD 27 = false ∧ ¬ (demo.tselect = 3#2 ∧ (0x000009C7#32).getLsbD 11 = true)) ∧
      (0x00000780#32).extractLsb' 12 4 = 0#4 ∧ (0x00000780#32).extractLsb' 9 2 ≠ 0#2 ∧
      (0x00001000#32).extractLsb' 12 4 ≠ 0#4 ∧ (0x08000000#32).getLsbD 27 = true ∧
      (({ demo with tselect := 3#2 } : State).tselect = 3#2 ∧ (0x00000800#32).extractLsb' 12 4 = 0#4 ∧
        (0x00000800#32).getLsbD 27 = false ∧ (0x00000800#32).getLsbD 11 = true) := by decide

theorem witness_CompressedArithmetic :
    0#2 ++ 0#4 ++ 1#1 ++ 0#1 ≠ 0#8 ∧ 0#1 ++ 0#1 ++ 0#1 ++ 2#2 ++ 0#1 ≠ 0#6 ∧ 1#1 ++ 0#5 ≠ 0#6 ∧ 1#5 ≠ 0#5 ∧
      31#5 ≠ 0#5 ∧ 0#5 ≠ 2#5 := by decide

theorem witness_CompressedJumps : 1#5 ≠ 0#5 ∧ 31#5 ≠ 0#5 := by decide

theorem witness_HintsChangeNothing :
    Instr.cAddi 31#5 0#6 = .cAddi 31#5 0#6 ∧ Instr.remu 0#5 1#5 2#5 = .remu 0#5 1#5 2#5 := by decide

theorem witness_DecodeEncode :
    Instr.wf (.jal 1#5 (-1048576#21)) = true ∧ Instr.wf (.cLui 31#5 0x20000#18) = true ∧
      Instr.wf (.cAddi16sp (-512#10)) = true ∧ Instr.wf .cIllegal = true := by decide

theorem witness_EncodeDecode :
    (∃ i, decode (.half 0x7101#16) = .ok i) ∧ ∃ i, decode (.full 0x80B55063#32) = .ok i :=
  ⟨⟨_, rfl⟩, ⟨_, rfl⟩⟩

theorem witness_ResetState :
    State.reset = State.resetWith Params.recommended [] [] [] := rfl

theorem witness_ResetInv :
    (0x20000000#32).getLsbD 0 = false ∧ Memory.wf [⟨0x20000000, 0x13#8⟩] ∧
      ∀ c ∈ ([⟨0x20000000, 0x13#8⟩] : List Host.Cell), 0x20000000 ≤ c.1 ∧ c.1 < 0x40000000 := by decide

/-- A state whose pc points to an ADDI. -/
def atAddi : State := demo.withFetchWord 32 0xFFF58513

theorem witness_StepRunsDecoded :
    atAddi.inputs = [] ∧ atAddi.debugMode = false ∧ atAddi.waiting = false ∧ atAddi.dcsrStep = false ∧
      ({ atAddi with dcsrStep := true } : State).dcsrStep = true ∧ atAddi.pc.getLsbD 0 = false ∧
      interruptDecision (passBoundary atAddi) = .noInterrupt ∧ NoTrigger atAddi .fetch ∧ atAddi.unfenced = [] ∧
      ReadablePort atAddi atAddi.pc ∧ ReadablePort atAddi (atAddi.pc + 2#32) ∧
      decodeBytes (Memory.readBytes atAddi.mem atAddi.pc.toNat 4) = .ok (.addi 10#5 11#5 (-1#12), []) ∧
      Instr.wf (.addi 10#5 11#5 (-1#12)) = true := by
  unfold NoTrigger ReadablePort InPort
  decide

theorem witness_StepKeepsInv : Inv atAddi ∧ ∃ t, step atAddi = .next t :=
  ⟨{ mem_wf := by decide
     mem_port := by decide
     x0 := by decide
     pc_even := by decide
     mepc_even := by decide
     dpc_even := by decide
     minhv := by decide
     mil_legal := by decide
     mpil_legal := by decide
     clic_reserved := by unfold ClicRegs.reservedZero; decide
     clicOld_reserved := by intro c h; cases h
     last_unchained := by decide }, _, rfl⟩

theorem witness_StepKeepsNoDebugger : NoDebugger atAddi ∧ ∃ t, step atAddi = .next t :=
  ⟨⟨by decide, by decide, by decide, by decide⟩, _, rfl⟩

end Sys2Proof.Tests
end

section
/-! SUPPORT. The CSR instructions on registers that every access reaches: what an access leaves, the six forms at
once, and the bits of `mstatus`, `mie` and `mip` (spec/10_state.md R61, R62, R66, R67, R71;
spec/43_system_and_csr.md R320 to R327). -/

namespace Sys2Proof.Machine

/-! ## The instructions as accesses (43 R320 to R325) -/

theorem exec_csrrw (rd rs1 : Reg) (csr : BitVec 12) (s : State) : exec (.csrrw rd rs1 csr) s =
    csrInstruction s ⟨.write, csr, rd, readReg s rs1, true, false, (encode (.csrrw rd rs1 csr)).bits⟩ := rfl

theorem exec_csrrs (rd rs1 : Reg) (csr : BitVec 12) (s : State) : exec (.csrrs rd rs1 csr) s =
    csrInstruction s ⟨.set, csr, rd, readReg s rs1, rs1 != 0#5, false, (encode (.csrrs rd rs1 csr)).bits⟩ := rfl

theorem exec_csrrc (rd rs1 : Reg) (csr : BitVec 12) (s : State) : exec (.csrrc rd rs1 csr) s =
    csrInstruction s ⟨.clear, csr, rd, readReg s rs1, rs1 != 0#5, false, (encode (.csrrc rd rs1 csr)).bits⟩ := rfl

theorem exec_csrrwi (rd : Reg) (uimm : BitVec 5) (csr : BitVec 12) (s : State) : exec (.csrrwi rd uimm csr) s =
    csrInstruction s ⟨.write, csr, rd, zext uimm, true, true, (encode (.csrrwi rd uimm csr)).bits⟩ := rfl

theorem exec_csrrsi (rd : Reg) (uimm : BitVec 5) (csr : BitVec 12) (s : State) : exec (.csrrsi rd uimm csr) s =
    csrInstruction s ⟨.set, csr, rd, zext uimm, uimm != 0#5, true, (encode (.csrrsi rd uimm csr)).bits⟩ := rfl

theorem exec_csrrci (rd : Reg) (uimm : BitVec 5) (csr : BitVec 12) (s : State) : exec (.csrrci rd uimm csr) s =
    csrInstruction s ⟨.clear, csr, rd, zext uimm, uimm != 0#5, true, (encode (.csrrci rd uimm csr)).bits⟩ := rfl

/-! ## Registers that every access reaches -/

/-- At `a` stands the CSR `c`, whose accesses pass the checks of 43 R327 in every state and have no rule of their
own, as those to `mnxti`, `mcause` and `minstret` have. -/
structure PlainAt (a : BitVec 12) (c : Csr) : Prop where
  address : csrOf a = some c
  writable : a.extractLsb' 10 2 ≠ 0b11#2
  machine : isDebugOnly c = false
  untriggered : isTdata c = false
  present : c ≠ .unknown
  not_mnxti : c ≠ .mnxti
  not_mcause : c ≠ .mcause
  uncounted : isMinstret c = false

theorem plainAt_mstatus : PlainAt 0x300#12 .mstatus := by constructor <;> decide
theorem plainAt_mie : PlainAt 0x304#12 .mie := by constructor <;> decide
theorem plainAt_mscratch : PlainAt 0x340#12 .mscratch := by constructor <;> decide
theorem plainAt_mip : PlainAt 0x344#12 .mip := by constructor <;> decide

theorem PlainAt.csrCheck {a : BitVec 12} {c : Csr} (h : PlainAt a c) (s : State) (writes : Bool) :
    csrCheck s a writes = .access c := by
  have hdcsr : c ≠ .dcsr := fun e => by have := h.machine; rw [e] at this; cases this
  simp [Machine.csrCheck, h.address, h.writable, h.machine, h.untriggered, h.present, hdcsr]

theorem PlainAt.csrUpdate {a : BitVec 12} {c : Csr} (h : PlainAt a c) (s : State) (i : CsrAccess) :
    csrUpdate s i c = if i.writes then csrWrite s (i.op.apply (csrRead s c) i.operand) c else .ok s :=
  csrUpdate_other fun hc => h.not_mcause hc.1

/-- An access to a plain CSR writes the old value to `rd` over the updated state, and retires. -/
theorem PlainAt.csrInstruction {s u : State} {i : CsrAccess} {c : Csr} (h : PlainAt i.csr c)
    (hu : Machine.csrUpdate s i c = .ok u) :
    csrInstruction s i = .next (retire (writeReg u i.rd (csrRead s c)) (s.pc + 4#32)) := by
  rw [csrInstruction_access (h.csrCheck s _) h.not_mnxti hu, csrRetire, h.uncounted]
  simp

/-! ## What an access leaves -/

/-- The outcome of a CSR instruction of `s` whose effect on the CSRs leads to `u`: `rd` receives a value with `P`,
and nothing else differs from `u` but the pc and the count of retired instructions. -/
def CsrCompletes (s u : State) (rd : Reg) (P : Word → Prop) (o : Host.Outcome State Fault Refusal) : Prop :=
  ∃ t, o = .next t ∧ WritesReg s t rd P ∧ SameMemory s t ∧
    t = { u with x := t.x, pc := s.pc + 4#32, minstret := s.minstret + 1#64 }

/-- What a register write does to the registers depends on the registers only. -/
theorem writeReg_x_congr {s t : State} (h : s.x = t.x) (r : Reg) (v : Word) :
    (writeReg s r v).x = (writeReg t r v).x := by
  unfold writeReg
  split
  · exact h
  · simp only [h]

/-- Retiring after a register write, on top of other changes. -/
theorem retire_writeReg_eq (u : State) (rd : Reg) (v next : Word) :
    retire (writeReg u rd v) next =
      { u with x := (writeReg u rd v).x, pc := next, minstret := u.minstret + 1#64 } := by
  unfold retire writeReg
  split <;> rfl

/-- An access to a plain CSR whose update leaves the registers, the memory and the count of retired
instructions. -/
theorem csrInstruction_completes {s u : State} {i : CsrAccess} {c : Csr} {P : Word → Prop} (h : PlainAt i.csr c)
    (hu : csrUpdate s i c = .ok u) (hx : u.x = s.x) (hmem : u.mem = s.mem) (hcount : u.minstret = s.minstret)
    (hP : P (csrRead s c)) : CsrCompletes s u i.rd P (csrInstruction s i) := by
  refine ⟨_, h.csrInstruction hu, writesReg_of_x (writeReg_x_congr hx i.rd _) hP,
    SameMemory.rfl' _ _ (by simp [hmem]), ?_⟩
  rw [retire_writeReg_eq, hcount]

/-- An access to a plain CSR that updates nothing. -/
theorem csrInstruction_computed {s : State} {i : CsrAccess} {c : Csr} {P : Word → Prop} (h : PlainAt i.csr c)
    (hu : csrUpdate s i c = .ok s) (hP : P (csrRead s c)) :
    ∃ t, csrInstruction s i = .next t ∧ Computed s t i.rd 4#32 P := by
  rw [h.csrInstruction hu]
  exact writeAndRetire_computed hP

/-! ## The six forms at once -/

/-- No bit is set or cleared by a zero operand. -/
theorem CsrOp.apply_zero {op : CsrOp} (h : op ≠ .write) (old : Word) : op.apply old 0#32 = old := by
  cases op with
  | write => exact absurd rfl h
  | set => exact BitVec.or_zero
  | clear => exact BitVec.and_allOnes

/-- If the access is no write, then what it would write is the old value (43 R326). -/
def CsrAccess.KeepsUnwritten (i : CsrAccess) : Prop :=
  i.writes = false → ∀ old, i.op.apply old i.operand = old

/-- Setting or clearing the bits of a zero operand, the only one that is not written. -/
theorem keepsUnwritten_of_zero {i : CsrAccess} {n : BitVec 5} (hop : i.op ≠ .write) (hw : i.writes = (n != 0#5))
    (hz : n = 0#5 → i.operand = 0#32) : i.KeepsUnwritten := by
  intro hno old
  have hn : n = 0#5 := by simpa [hw] using hno
  rw [hz hn, CsrOp.apply_zero hop]

/-- Where a CSR is written back as it reads, an access that is no write can be taken for one. -/
theorem PlainAt.csrUpdate_eq_csrWrite {a : BitVec 12} {c : Csr} (h : PlainAt a c) {s : State} {i : CsrAccess}
    (hi : i.KeepsUnwritten) (hback : csrWrite s (csrRead s c) c = .ok s) :
    Machine.csrUpdate s i c = csrWrite s (i.op.apply (csrRead s c) i.operand) c := by
  rw [h.csrUpdate]
  split
  · rfl
  · rename_i hw
    rw [hi (Bool.eq_false_of_not_eq_true hw), hback]

/-- Where every access to the CSR at `a` completes with the update `upd` of its operation and operand, so do the six
instructions, of which those that do not write carry a zero operand. -/
theorem csrForms_complete {s : State} {a : BitVec 12} {P : Word → Prop} {upd : CsrOp → Word → State}
    (h : ∀ i : CsrAccess, i.csr = a → i.KeepsUnwritten →
      CsrCompletes s (upd i.op i.operand) i.rd P (csrInstruction s i)) (rd rs1 : Reg) (uimm : BitVec 5) :
    CsrCompletes s (upd .write (readReg s rs1)) rd P (exec (.csrrw rd rs1 a) s) ∧
    CsrCompletes s (upd .set (readReg s rs1)) rd P (exec (.csrrs rd rs1 a) s) ∧
    CsrCompletes s (upd .clear (readReg s rs1)) rd P (exec (.csrrc rd rs1 a) s) ∧
    CsrCompletes s (upd .write (zext uimm)) rd P (exec (.csrrwi rd uimm a) s) ∧
    CsrCompletes s (upd .set (zext uimm)) rd P (exec (.csrrsi rd uimm a) s) ∧
    CsrCompletes s (upd .clear (zext uimm)) rd P (exec (.csrrci rd uimm a) s) := by
  have hreg : rs1 = 0#5 → readReg s rs1 = 0#32 := by rintro rfl; exact readReg_zero s
  have himm : uimm = 0#5 → zext uimm = 0#32 := by rintro rfl; rfl
  rw [exec_csrrw, exec_csrrs, exec_csrrc, exec_csrrwi, exec_csrrsi, exec_csrrci]
  exact ⟨h _ rfl nofun,
    h _ rfl (keepsUnwritten_of_zero nofun rfl hreg),
    h _ rfl (keepsUnwritten_of_zero nofun rfl hreg),
    h _ rfl nofun,
    h _ rfl (keepsUnwritten_of_zero nofun rfl himm),
    h _ rfl (keepsUnwritten_of_zero nofun rfl himm)⟩

/-! ## `mscratch` (10 R71) -/

/-- The state with the operation done on `mscratch`. -/
def mscratchUpdate (s : State) (op : CsrOp) (operand : Word) : State :=
  { s with mscratch := op.apply s.mscratch operand }

theorem csrUpdate_mscratch {s : State} {i : CsrAccess} (h : i.KeepsUnwritten) :
    csrUpdate s i .mscratch = .ok (mscratchUpdate s i.op i.operand) :=
  plainAt_mscratch.csrUpdate_eq_csrWrite h rfl

theorem mscratch_completes {s : State} {i : CsrAccess} (ha : i.csr = 0x340#12) (h : i.KeepsUnwritten) :
    CsrCompletes s (mscratchUpdate s i.op i.operand) i.rd (fun v => v = s.mscratch)
      (csrInstruction s i) :=
  csrInstruction_completes (ha ▸ plainAt_mscratch) (csrUpdate_mscratch h) rfl rfl rfl rfl

/-- A set or clear by a register, with the case of `x0` set apart as in 43 R326. -/
theorem mscratchUpdate_readReg {op : CsrOp} (h : op ≠ .write) (s : State) (rs1 : Reg) :
    mscratchUpdate s op (readReg s rs1) =
      { s with mscratch := if rs1 = 0#5 then s.mscratch else op.apply s.mscratch (readReg s rs1) } := by
  rw [mscratchUpdate]
  split
  · rename_i hx0
    rw [hx0, readReg_zero, CsrOp.apply_zero h]
  · rfl

/-- Settles O29: the six forms complete on a plain register, and a set or clear that names x0 has a zero operand. -/
theorem csrFormsOnMscratch : Obligations.CsrFormsOnMscratch := by
  rintro s rd rs1 uimm _ _ rfl rfl
  obtain ⟨hw, hs, hc, hwi, hsi, hci⟩ := csrForms_complete (fun _ => mscratch_completes (s := s)) rd rs1 uimm
  rw [mscratchUpdate_readReg (op := .set) nofun] at hs
  rw [mscratchUpdate_readReg (op := .clear) nofun] at hc
  exact ⟨hw, hs, hc, hwi, hsi, hci⟩

/-! ## `mstatus` (10 R61, R62) -/

/-- The value of `CsrOp.apply` in one bit. -/
def CsrOp.applyBit (op : CsrOp) (old operand : Bool) : Bool :=
  match op with
  | .write => operand
  | .set => old || operand
  | .clear => old && !operand

theorem CsrOp.getLsbD_apply (op : CsrOp) (old operand : Word) {k : Nat} (hk : k < 32) :
    (op.apply old operand).getLsbD k = op.applyBit (old.getLsbD k) (operand.getLsbD k) := by
  cases op <;> simp [CsrOp.apply, CsrOp.applyBit, hk]

theorem getLsbD_bitAt (b : Bool) (i : Nat) {k : Nat} (hk : k < 32) :
    (bitAt b i).getLsbD k = (decide (k = i) && b) := by
  cases b with
  | false => simp [bitAt]
  | true =>
    have htwo : bitAt true i = BitVec.twoPow 32 i := rfl
    rw [htwo, BitVec.getLsbD_twoPow]
    by_cases h : k = i
    · simp [← h, hk]
    · simp [h, Ne.symm h]

/-- MIE in bit 3, MPIE in bit 7, MPP in bits 11 and 12. -/
theorem getLsbD_mstatusRead (s : State) {k : Nat} (hk : k < 32) :
    (mstatusRead s).getLsbD k =
      if k = 3 then s.mstatusMie else if k = 7 then s.mstatusMpie else decide (k = 11 ∨ k = 12) := by
  have hmpp : ∀ k < 32, (0x1800#32).getLsbD k = decide (k = 11 ∨ k = 12) := by decide
  simp only [mstatusRead, BitVec.getLsbD_or, getLsbD_bitAt _ _ hk, hmpp k hk]
  split
  · simp [*]
  · split <;> simp [*]

/-- The state with the operation done on MIE and MPIE. -/
def mstatusUpdate (s : State) (op : CsrOp) (operand : Word) : State :=
  { s with
    mstatusMie := op.applyBit s.mstatusMie (operand.getLsbD 3)
    mstatusMpie := op.applyBit s.mstatusMpie (operand.getLsbD 7) }

theorem csrWrite_mstatus (s : State) (op : CsrOp) (operand : Word) :
    csrWrite s (op.apply (mstatusRead s) operand) .mstatus = .ok (mstatusUpdate s op operand) := by
  rw [csrWrite, op.getLsbD_apply _ _ (by decide), op.getLsbD_apply _ _ (by decide), getLsbD_mstatusRead s (by decide),
    getLsbD_mstatusRead s (by decide)]
  rfl

/-- The fields written back as they read. -/
theorem csrWrite_mstatusRead (s : State) : csrWrite s (mstatusRead s) .mstatus = .ok s := by
  rw [csrWrite, getLsbD_mstatusRead s (by decide), getLsbD_mstatusRead s (by decide)]
  rfl

theorem csrUpdate_mstatus {s : State} {i : CsrAccess} (h : i.KeepsUnwritten) :
    csrUpdate s i .mstatus = .ok (mstatusUpdate s i.op i.operand) := by
  rw [plainAt_mstatus.csrUpdate_eq_csrWrite h (csrWrite_mstatusRead s)]
  exact csrWrite_mstatus s i.op i.operand

/-- The image of `mstatus`. -/
def MstatusImage (s : State) (old : Word) : Prop :=
  ∀ k < 32, old.getLsbD k =
    if k = 3 then s.mstatusMie else if k = 7 then s.mstatusMpie else decide (k = 11 ∨ k = 12)

theorem mstatus_completes {s : State} {i : CsrAccess} (ha : i.csr = 0x300#12) (h : i.KeepsUnwritten) :
    CsrCompletes s (mstatusUpdate s i.op i.operand) i.rd (MstatusImage s) (csrInstruction s i) :=
  csrInstruction_completes (ha ▸ plainAt_mstatus) (csrUpdate_mstatus h) rfl rfl rfl
    fun _ => getLsbD_mstatusRead s

/-- An immediate reaches MIE as a register does, and has no bit where MPIE stands. -/
theorem mstatusUpdate_zext (s : State) (op : CsrOp) (uimm : BitVec 5) :
    mstatusUpdate s op (zext uimm) =
      { s with
        mstatusMie := op.applyBit s.mstatusMie (uimm.getLsbD 3)
        mstatusMpie := op.applyBit s.mstatusMpie false } := by
  have h3 : (zext uimm).getLsbD 3 = uimm.getLsbD 3 := by simp [zext]
  have h7 : (zext uimm).getLsbD 7 = false := by simp [zext]
  rw [mstatusUpdate, h3, h7]

/-- The clauses of a completed access in the order in which `Obligations.MstatusAccess` has them. -/
theorem CsrCompletes.memory_and_register {s u : State} {rd : Reg} {P : Word → Prop}
    {o : Host.Outcome State Fault Refusal} (h : CsrCompletes s u rd P o) :
    ∃ t, o = .next t ∧ (SameMemory s t ∧ WritesReg s t rd P) ∧
      t = { u with x := t.x, pc := s.pc + 4#32, minstret := s.minstret + 1#64 } := by
  obtain ⟨t, ho, hrd, hmem, ht⟩ := h
  exact ⟨t, ho, ⟨hmem, hrd⟩, ht⟩

/-- Settles O31: the six forms complete with the operation done on MIE and MPIE alone. -/
theorem mstatusAccess : Obligations.MstatusAccess := by
  rintro s rd rs1 uimm _ _ _ rfl rfl rfl
  obtain ⟨hw, hs, hc, hwi, hsi, hci⟩ := csrForms_complete (fun _ => mstatus_completes (s := s)) rd rs1 uimm
  rw [mstatusUpdate_zext] at hwi hsi hci
  have hset : CsrOp.set.applyBit s.mstatusMpie false = s.mstatusMpie := Bool.or_false _
  have hclear : CsrOp.clear.applyBit s.mstatusMpie false = s.mstatusMpie := Bool.and_true _
  rw [hset] at hsi
  rw [hclear] at hci
  exact ⟨hw.memory_and_register, hs.memory_and_register, hc.memory_and_register, hwi.memory_and_register,
    hsi.memory_and_register, hci.memory_and_register⟩

/-! ## `mie` and `mip` (10 R66, R67) -/

/-- The software, timer and external bit together. -/
theorem getLsbD_threeBits (b3 b7 b11 : Bool) {k : Nat} (hk : k < 32) :
    (bitAt b3 3 ||| bitAt b7 7 ||| bitAt b11 11).getLsbD k =
      if k = 3 then b3 else if k = 7 then b7 else if k = 11 then b11 else false := by
  simp only [BitVec.getLsbD_or, getLsbD_bitAt _ _ hk]
  split
  · simp [*]
  · split
    · simp [*]
    · split <;> simp [*]

theorem mieRead_basic {s : State} (h : clicMode s = false) :
    mieRead s = bitAt s.mieMsie 3 ||| bitAt s.mieMtie 7 ||| bitAt s.mieMeie 11 := by
  simp [mieRead, h]

theorem mieRead_clic {s : State} (h : clicMode s = true) : mieRead s = 0#32 := if_pos h

/-- `mip` outside CLIC mode shows the software bit, the timer comparison and the external wire. -/
theorem mipRead_basic {s : State} (h : clicMode s = false) :
    mipRead s = bitAt s.clic.msip 3 ||| bitAt (decide (s.clic.mtimecmp.toNat ≤ s.mtime.toNat)) 7 |||
      bitAt s.meipWire 11 := by
  simp [mipRead, h, pendingNow, pendingOf, timerPending, BitVec.ule]

theorem mipRead_clic {s : State} (h : clicMode s = true) : mipRead s = 0#32 := if_pos h

theorem csrUpdate_mie_basic {s : State} {i : CsrAccess} (h : clicMode s = false) (hw : i.writes = true)
    (hop : i.op = .write) :
    csrUpdate s i .mie = .ok { s with
      mieMsie := i.operand.getLsbD 3, mieMtie := i.operand.getLsbD 7, mieMeie := i.operand.getLsbD 11 } := by
  simp [plainAt_mie.csrUpdate, csrWrite, CsrOp.apply, h, hw, hop]

theorem csrUpdate_mie_clic {s : State} (i : CsrAccess) (h : clicMode s = true) : csrUpdate s i .mie = .ok s := by
  simp [plainAt_mie.csrUpdate, csrWrite, h]

/-- `mip` is read-only. -/
theorem csrUpdate_mip (s : State) (i : CsrAccess) : csrUpdate s i .mip = .ok s := by
  simp [plainAt_mip.csrUpdate, csrWrite]

/-- Settles O32: by the mode, and for each register by its image and its update. -/
theorem mieAndMip : Obligations.MieAndMip := by
  rintro s rd rs1 _ rfl
  rw [exec_csrrw, exec_csrrw]
  refine ⟨fun hbasic => ⟨?mie, ?mip⟩, fun hclic => ⟨?mieClic, ?mipClic⟩⟩
  case mie =>
    exact csrInstruction_completes plainAt_mie (csrUpdate_mie_basic hbasic rfl rfl) rfl rfl rfl fun k hk => by
      rw [csrRead, mieRead_basic hbasic, getLsbD_threeBits _ _ _ hk]
  case mip =>
    exact csrInstruction_computed plainAt_mip (csrUpdate_mip s _) fun k hk => by
      rw [csrRead, mipRead_basic hbasic, getLsbD_threeBits _ _ _ hk]
  case mieClic => exact csrInstruction_computed plainAt_mie (csrUpdate_mie_clic _ hclic) (mieRead_clic hclic)
  case mipClic => exact csrInstruction_computed plainAt_mip (csrUpdate_mip s _) (mipRead_clic hclic)

end Sys2Proof.Machine
end

section
/-! SUPPORT. What the decoder rejects: the reserved patterns of each quadrant, the major opcodes the E20 lacks, and
the words of its own opcodes that no row has (spec/30_encoding.md R190 to R196, R202, R203, R210 to R215). -/

namespace Sys2Proof

/-- A field of a field. -/
theorem extract_extract {n : Nat} (x : BitVec n) {s l k m : Nat} (h : k + m ≤ l) :
    (x.extractLsb' s l).extractLsb' k m = x.extractLsb' (s + k) m := by
  ext i hi
  have hin : k + i < l := by omega
  simp [hin, Nat.add_assoc]

/-! ## From the rows to the decoder -/

theorem decode_half_of_match16_none {w : BitVec 16} (h : match16 w = none) :
    decode (.half w) = .error (.noCompressed w) := by
  simp [decode, decode16, h]

theorem decode_full_of_match32_none {w : BitVec 32} (h : match32 w = none) :
    ∃ err, decode (.full w) = .error err := by
  simp only [decode, decode32, h]
  split
  · exact ⟨_, rfl⟩
  · exact ⟨_, rfl⟩

theorem match16_of_quadrant0 {w : BitVec 16} (h : w.extractLsb' 0 2 = 0b00#2) : match16 w = decodeQ0 w := if_pos h

theorem match16_of_quadrant1 {w : BitVec 16} (h : w.extractLsb' 0 2 = 0b01#2) : match16 w = decodeQ1 w := by
  simp [match16, h]

theorem match16_of_quadrant2 {w : BitVec 16} (h : w.extractLsb' 0 2 = 0b10#2) : match16 w = decodeQ2 w := by
  simp [match16, h]

/-! ## Quadrant 00 -/

/-- C.ADDI4SPN has an immediate other than 0; the all-zero halfword has a row of its own. -/
theorem decodeQ0_addi4spn_zero {w : BitVec 16} (hw : w ≠ 0x0000#16) (hf : w.extractLsb' 13 3 = 0b000#3)
    (himm : w.extractLsb' 5 8 = 0#8) : decodeQ0 w = none := by
  simp [decodeQ0, hw, hf, himm]

theorem decodeQ0_funct3_absent {w : BitVec 16}
    (hf : w.extractLsb' 13 3 = 0b100#3 ∨ w.extractLsb' 13 3 = 0b001#3 ∨ w.extractLsb' 13 3 = 0b011#3 ∨
      w.extractLsb' 13 3 = 0b101#3 ∨ w.extractLsb' 13 3 = 0b111#3) : decodeQ0 w = none := by
  have hw : w ≠ 0x0000#16 := by rintro rfl; exact absurd hf (by decide)
  rcases hf with hf | hf | hf | hf | hf <;> simp [decodeQ0, hw, hf]

/-! ## Quadrant 01 -/

/-- C.LUI and C.ADDI16SP have an immediate other than 0. -/
theorem decodeQ1_upperImm_zero {w : BitVec 16} (hf : w.extractLsb' 13 3 = 0b011#3) (h12 : w.extractLsb' 12 1 = 0#1)
    (hlow : w.extractLsb' 2 5 = 0#5) : decodeQ1 w = none := by
  have himm : cimm6 w = 0#6 := by rw [cimm6, h12, hlow]; rfl
  simp [decodeQ1, hf, himm]

theorem decodeQ1_of_alu {w : BitVec 16} (hf : w.extractLsb' 13 3 = 0b100#3) : decodeQ1 w = decodeQ1Alu w := by
  simp [decodeQ1, hf]

/-- The two-register forms have rows only where bit 12 is 0; the others are RV64's or reserved. -/
theorem decodeQ1_registers_bit12 {w : BitVec 16} (hf : w.extractLsb' 13 3 = 0b100#3)
    (hhigh : w.extractLsb' 10 3 = 0b111#3) : decodeQ1 w = none := by
  have hg : w.extractLsb' 10 2 = 0b11#2 := by
    rw [← extract_extract w (k := 0) (l := 3) (by decide), hhigh]; rfl
  have h12 : w.extractLsb' 12 1 = 1#1 := by
    rw [← extract_extract w (s := 10) (k := 2) (l := 3) (by decide), hhigh]; rfl
  rw [decodeQ1_of_alu hf]
  simp [decodeQ1Alu, hg, h12]

/-- The right shifts have rows only where `shamt[5]` is 0. -/
theorem decodeQ1_shift_bit12 {w : BitVec 16} (hf : w.extractLsb' 13 3 = 0b100#3) (h11 : w.extractLsb' 11 1 = 0#1)
    (h12 : w.extractLsb' 12 1 = 1#1) : decodeQ1 w = none := by
  have hright : ∀ g : BitVec 2, g.extractLsb' 1 1 = 0#1 → g = 0b00#2 ∨ g = 0b01#2 := by decide
  rw [decodeQ1_of_alu hf]
  rcases hright (w.extractLsb' 10 2) ((extract_extract w (by decide)).trans h11) with hg | hg
  · simp [decodeQ1Alu, hg, h12]
  · simp [decodeQ1Alu, hg, h12]

/-! ## Quadrant 10 -/

/-- C.LWSP has a destination other than x0. -/
theorem decodeQ2_lwsp_x0 {w : BitVec 16} (hf : w.extractLsb' 13 3 = 0b010#3) (hrd : crd w = 0#5) :
    decodeQ2 w = none := by
  simp [decodeQ2, hf, hrd]

/-- C.SLLI has a row only where `shamt[5]` is 0. -/
theorem decodeQ2_slli_bit12 {w : BitVec 16} (hf : w.extractLsb' 13 3 = 0b000#3) (h12 : w.extractLsb' 12 1 = 1#1) :
    decodeQ2 w = none := by
  simp [decodeQ2, hf, h12]

theorem decodeQ2_funct3_absent {w : BitVec 16}
    (hf : w.extractLsb' 13 3 = 0b001#3 ∨ w.extractLsb' 13 3 = 0b011#3 ∨ w.extractLsb' 13 3 = 0b101#3 ∨
      w.extractLsb' 13 3 = 0b111#3) : decodeQ2 w = none := by
  rcases hf with hf | hf | hf | hf <;> simp [decodeQ2, hf]

/-! ## 32-bit words -/

/-- The major opcodes that the E20 has (30 R190). -/
def majorOpcodes : List (BitVec 7) :=
  [0b0110111#7, 0b0010111#7, 0b1101111#7, 0b1100111#7, 0b1100011#7, 0b0000011#7, 0b0100011#7, 0b0010011#7,
    0b0110011#7, 0b0001111#7, 0b1110011#7]

theorem match32_of_opcode_absent {w : BitVec 32} (h : opcode w ∉ majorOpcodes) : match32 w = none := by
  simp only [majorOpcodes, List.mem_cons, List.not_mem_nil, or_false, not_or] at h
  simp [match32, h]

/-- The major opcodes of the A, F, D and Q extensions, of RV64 and for custom instructions (30 R215). -/
def absentOpcodes : List (BitVec 7) :=
  [0b0101111#7, 0b0000111#7, 0b0100111#7, 0b1000011#7, 0b1000111#7, 0b1001011#7, 0b1001111#7, 0b1010011#7,
    0b0011011#7, 0b0111011#7, 0b0001011#7, 0b0101011#7, 0b1011011#7, 0b1111011#7]

theorem not_mem_majorOpcodes_of_absent : ∀ o ∈ absentOpcodes, o ∉ majorOpcodes := by decide

/-- LD and LWU are RV64's. -/
theorem match32_load_absent {w : BitVec 32} (hop : opcode w = 0b0000011#7)
    (hf : funct3 w = 0b011#3 ∨ funct3 w = 0b110#3) : match32 w = none := by
  have hload : match32 w = decodeLoad w := by simp [match32, hop]
  rw [hload]
  rcases hf with hf | hf
  · simp [decodeLoad, hf]
  · simp [decodeLoad, hf]

/-- SD is RV64's. -/
theorem match32_store_absent {w : BitVec 32} (hop : opcode w = 0b0100011#7) (hf : funct3 w = 0b011#3) :
    match32 w = none := by
  have hstore : match32 w = decodeStore w := by simp [match32, hop]
  rw [hstore]
  simp [decodeStore, hf]

/-- With `funct3` = 000 SYSTEM has five words. -/
theorem match32_system_absent {w : BitVec 32} (hop : opcode w = 0b1110011#7) (hf : funct3 w = 0b000#3)
    (hw : w ∉ [0x00000073#32, 0x00100073#32, 0x30200073#32, 0x10500073#32, 0x7B200073#32]) : match32 w = none := by
  have hsystem : match32 w = decodeSystem w := by simp [match32, hop]
  simp only [List.mem_cons, List.not_mem_nil, or_false, not_or] at hw
  rw [hsystem]
  simp [decodeSystem, hf, hw]

end Sys2Proof
end

section
/-! SUPPORT. The words that raise the illegal-instruction exception, and the hints, which change nothing
(spec/30_encoding.md R210 to R215; spec/43_system_and_csr.md R319; spec/45_c_extension.md R389). -/

namespace Sys2Proof.Machine

/-! ## Words that raise the illegal-instruction exception -/

theorem raisesIllegal_of_decode_error {s : State} (h : HandlerAligned s) {e : Encoded} {err : DecodeError}
    (he : decode e = .error err) : RaisesIllegal s e := by
  have hrun : runEncoded s e = takeIllegal s e.bits := by simp [runEncoded, he]
  rw [RaisesIllegal, hrun]
  exact takeIllegal_entered h e.bits

theorem raisesIllegal_half {s : State} (h : HandlerAligned s) {w : BitVec 16} (hw : match16 w = none) :
    RaisesIllegal s (.half w) :=
  raisesIllegal_of_decode_error h (decode_half_of_match16_none hw)

theorem raisesIllegal_full {s : State} (h : HandlerAligned s) {w : BitVec 32} (hw : match32 w = none) :
    RaisesIllegal s (.full w) :=
  have ⟨_, he⟩ := decode_full_of_match32_none hw
  raisesIllegal_of_decode_error h he

/-- The all-zero halfword decodes, to an instruction whose meaning is the exception. -/
theorem raisesIllegal_zeroHalf {s : State} (h : HandlerAligned s) : RaisesIllegal s (.half 0x0000#16) :=
  takeIllegal_entered h 0#32

/-- The bits of C.ILLEGAL are 0, so the trap value is 0 whichever of the two it is. -/
theorem cIllegal_takesException {s : State} (h : HandlerAligned s) : TakesException .cIllegal s 2#10 0#32 := by
  obtain ⟨t, tval, ht, htval, hentered⟩ := takeIllegal_entered h 0#32
  obtain rfl : tval = 0#32 := htval.elim id id
  exact ⟨t, ht, hentered⟩

/-- Settles O24: a word that does not decode runs as the exception itself. -/
theorem undecodedWordsTrap : Obligations.UndecodedWordsTrap := by
  refine ⟨rfl, fun s h => ⟨cIllegal_takesException h, ?allOnes, ?undecoded⟩⟩
  case allOnes => exact raisesIllegal_full h (match32_of_opcode_absent (by decide))
  case undecoded => exact fun _ _ he => raisesIllegal_of_decode_error h he

/-- The patterns with `funct3` = 000 that C.ADDI4SPN leaves, of which the all-zero halfword alone decodes. -/
theorem raisesIllegal_addi4spn_zero {s : State} (h : HandlerAligned s) {w : BitVec 16}
    (hq : w.extractLsb' 0 2 = 0b00#2) (hf : w.extractLsb' 13 3 = 0b000#3) (himm : w.extractLsb' 5 8 = 0#8) :
    RaisesIllegal s (.half w) := by
  by_cases hw : w = 0x0000#16
  · rw [hw]
    exact raisesIllegal_zeroHalf h
  · exact raisesIllegal_half h ((match16_of_quadrant0 hq).trans (decodeQ0_addi4spn_zero hw hf himm))

/-- Settles O25: by quadrant for the 16-bit patterns and by major opcode for the 32-bit ones, no row matches. -/
theorem reservedEncodingsTrap : Obligations.ReservedEncodingsTrap := by
  refine fun s h => ⟨fun w => ⟨?quadrant0, ?quadrant1, ?quadrant2⟩, ?full⟩
  case quadrant0 =>
    rintro hq (⟨hf, himm⟩ | hf)
    · exact raisesIllegal_addi4spn_zero h hq hf himm
    · exact raisesIllegal_half h ((match16_of_quadrant0 hq).trans (decodeQ0_funct3_absent hf))
  case quadrant1 =>
    intro hq hw
    refine raisesIllegal_half h ((match16_of_quadrant1 hq).trans ?_)
    rcases hw with ⟨hf, h12, hlow⟩ | ⟨hf, hhigh⟩ | ⟨hf, h11, h12⟩
    · exact decodeQ1_upperImm_zero hf h12 hlow
    · exact decodeQ1_registers_bit12 hf hhigh
    · exact decodeQ1_shift_bit12 hf h11 h12
  case quadrant2 =>
    intro hq hw
    refine raisesIllegal_half h ((match16_of_quadrant2 hq).trans ?_)
    rcases hw with ⟨hf, hrd⟩ | rfl | ⟨hf, h12⟩ | hf
    · exact decodeQ2_lwsp_x0 hf hrd
    · rfl
    · exact decodeQ2_slli_bit12 hf h12
    · exact decodeQ2_funct3_absent hf
  case full =>
    intro w hw
    refine raisesIllegal_full h ?_
    rcases hw with hop | ⟨hop, hf⟩ | ⟨hop, hf⟩ | ⟨hop, hf, hwords⟩
    · exact match32_of_opcode_absent (not_mem_majorOpcodes_of_absent _ hop)
    · exact match32_load_absent hop hf
    · exact match32_store_absent hop hf
    · exact match32_system_absent hop hf hwords

/-! ## Hints -/

@[simp] theorem shiftLeft_zero (v : Word) : shiftLeft v 0 = v := BitVec.shiftLeft_zero v

@[simp] theorem shiftRight_zero (v : Word) : shiftRight v 0 = v := BitVec.ushiftRight_zero v

@[simp] theorem shiftRightArith_zero (v : Word) : shiftRightArith v 0 = v := BitVec.sshiftRight_zero

/-- The end of the instructions that compute a register, where the register receives the value it holds. -/
theorem writeAndRetire_same {s : State} {rd : Reg} {v : Word} (len : Word) (h : rd ≠ 0#5 → v = readReg s rd) :
    ∃ t, writeAndRetire s rd v len = .next t ∧ WentTo s t (s.pc + len) := by
  rw [writeAndRetire, writeReg_same s rd v h]
  exact ⟨_, rfl, retire_wentTo s _⟩

/-- The same where the register is `x0`. -/
theorem writeAndRetire_x0 (s : State) (v len : Word) :
    ∃ t, writeAndRetire s 0#5 v len = .next t ∧ WentTo s t (s.pc + len) :=
  writeAndRetire_same len fun h => absurd rfl h

/-- Settles O52: a hint writes no register but `x0`, or writes back the value the register holds. -/
theorem hintsChangeNothing : Obligations.HintsChangeNothing := by
  refine fun s i rd rs1 rs2 rd' imm imm12 imm20 v18 shamt => ⟨?compressed, ?toX0⟩
  case compressed =>
    rintro (rfl | rfl | rfl | rfl | rfl | rfl | rfl | rfl | rfl | rfl)
    · exact ⟨_, rfl, retire_wentTo s _⟩
    · exact writeAndRetire_same 2#32 fun _ => BitVec.add_zero (readReg s rd)
    · exact writeAndRetire_x0 s (sext imm) 2#32
    · exact writeAndRetire_x0 s (sext v18) 2#32
    · exact writeAndRetire_x0 s (readReg s rs2) 2#32
    · exact writeAndRetire_x0 s (readReg s 0#5 + readReg s rs2) 2#32
    · exact writeAndRetire_x0 s (shiftLeft (readReg s 0#5) shamt.toNat) 2#32
    · exact writeAndRetire_same 2#32 fun _ => shiftLeft_zero (readReg s rd)
    · exact writeAndRetire_same 2#32 fun _ => shiftRight_zero (readReg s (cReg rd'))
    · exact writeAndRetire_same 2#32 fun _ => shiftRightArith_zero (readReg s (cReg rd'))
  case toX0 =>
    intro hi
    have hx0 : ∃ v, exec i s = writeAndRetire s 0#5 v 4#32 := by
      rcases hi with rfl | rfl | rfl | rfl | rfl | rfl | rfl | rfl | rfl | rfl | rfl | rfl | rfl | rfl | rfl |
        rfl | rfl | rfl | rfl | rfl | rfl | rfl | rfl | rfl | rfl | rfl | rfl | rfl | rfl <;> exact ⟨_, rfl⟩
    obtain ⟨v, hv⟩ := hx0
    rw [hv]
    exact writeAndRetire_x0 s v 4#32

end Sys2Proof.Machine
end

section
/-! SUPPORT. The fields of a 32-bit word written out as the concatenation of its fields, and the rows of the upper
immediates, OP-IMM and OP (spec/30_encoding.md R181 to R183, R186, R190, R192, R193). -/

namespace Sys2Proof

/-! ## The fields of a word of the R, I and U formats (30 R181 to R183, R186) -/

@[simp] theorem opcode_append (high : BitVec 25) (op : BitVec 7) : opcode (high ++ op) = op := by
  rw [opcode, extract_append_low high op 0 7 (by decide), extract_self]

@[simp] theorem rdField_append (high : BitVec 20) (rd : Reg) (op : BitVec 7) : rdField (high ++ rd ++ op) = rd := by
  rw [rdField, extract_append_high _ op 7 5 (by decide), extract_append_low high rd _ _ (by decide), extract_self]

@[simp] theorem immU_append (imm : BitVec 20) (rd : Reg) (op : BitVec 7) : immU (imm ++ rd ++ op) = imm := by
  rw [immU, extract_append_high _ op 12 20 (by decide), extract_append_high imm rd _ _ (by decide), extract_self]

/-- A field above `rd` and the opcode is a field of the bits above them. -/
theorem extract_above_rd (high : BitVec 20) (rd : Reg) (op : BitVec 7) {s l : Nat} (h : 12 ≤ s) :
    (high ++ rd ++ op).extractLsb' s l = high.extractLsb' (s - 7 - 5) l := by
  rw [extract_append_high _ op s l (by omega), extract_append_high high rd (s - 7) l (by omega)]

@[simp] theorem funct3_append (high : BitVec 17) (f3 : BitVec 3) (rd : Reg) (op : BitVec 7) :
    funct3 (high ++ f3 ++ rd ++ op) = f3 := by
  rw [funct3, extract_above_rd (high ++ f3) rd op (by decide), extract_append_low high f3 _ _ (by decide), extract_self]

/-- A field above `funct3` is a field of the bits above it. -/
theorem extract_above_funct3 (high : BitVec 17) (f3 : BitVec 3) (rd : Reg) (op : BitVec 7) {s l : Nat} (h : 15 ≤ s) :
    (high ++ f3 ++ rd ++ op).extractLsb' s l = high.extractLsb' (s - 7 - 5 - 3) l := by
  rw [extract_above_rd (high ++ f3) rd op (by omega), extract_append_high high f3 _ l (by omega)]

@[simp] theorem rs1Field_append (high : BitVec 12) (rs1 : Reg) (f3 : BitVec 3) (rd : Reg) (op : BitVec 7) :
    rs1Field (high ++ rs1 ++ f3 ++ rd ++ op) = rs1 := by
  rw [rs1Field, extract_above_funct3 (high ++ rs1) f3 rd op (by decide), extract_append_low high rs1 _ _ (by decide),
    extract_self]

/-- A field above `rs1` is a field of the bits above it. -/
theorem extract_above_rs1 (high : BitVec 12) (rs1 : Reg) (f3 : BitVec 3) (rd : Reg) (op : BitVec 7) {s l : Nat}
    (h : 20 ≤ s) : (high ++ rs1 ++ f3 ++ rd ++ op).extractLsb' s l = high.extractLsb' (s - 7 - 5 - 3 - 5) l := by
  rw [extract_above_funct3 (high ++ rs1) f3 rd op (by omega), extract_append_high high rs1 _ l (by omega)]

@[simp] theorem immI_append (imm : BitVec 12) (rs1 : Reg) (f3 : BitVec 3) (rd : Reg) (op : BitVec 7) :
    immI (imm ++ rs1 ++ f3 ++ rd ++ op) = imm := by
  rw [immI, extract_above_rs1 imm rs1 f3 rd op (by decide), extract_self]

@[simp] theorem rs2Field_append (f7 : BitVec 7) (rs2 rs1 : Reg) (f3 : BitVec 3) (rd : Reg) (op : BitVec 7) :
    rs2Field (f7 ++ rs2 ++ rs1 ++ f3 ++ rd ++ op) = rs2 := by
  rw [rs2Field, extract_above_rs1 (f7 ++ rs2) rs1 f3 rd op (by decide), extract_append_low f7 rs2 _ _ (by decide),
    extract_self]

@[simp] theorem funct7_append (f7 : BitVec 7) (rs2 rs1 : Reg) (f3 : BitVec 3) (rd : Reg) (op : BitVec 7) :
    funct7 (f7 ++ rs2 ++ rs1 ++ f3 ++ rd ++ op) = f7 := by
  rw [funct7, extract_above_rs1 (f7 ++ rs2) rs1 f3 rd op (by decide), extract_append_high f7 rs2 _ _ (by decide),
    extract_self]

/-! ## The rows of the upper immediates, OP-IMM and OP (30 R190, R192, R193) -/

theorem decode_full_of_match32 {w : BitVec 32} {i : Instr} (h : match32 w = some i) : decode (.full w) = .ok i := by
  simp [decode, decode32, h]

theorem decode_lui (rd : Reg) (imm20 : BitVec 20) :
    decode (.full (imm20 ++ rd ++ 0b0110111#7)) = .ok (.lui rd imm20) :=
  decode_full_of_match32 (by simp [match32])

theorem decode_auipc (rd : Reg) (imm20 : BitVec 20) :
    decode (.full (imm20 ++ rd ++ 0b0010111#7)) = .ok (.auipc rd imm20) :=
  decode_full_of_match32 (by simp [match32])

theorem match32_of_opImm {w : BitVec 32} (h : opcode w = 0b0010011#7) : match32 w = decodeOpImm w := by
  simp [match32, h]

theorem match32_of_op {w : BitVec 32} (h : opcode w = 0b0110011#7) : match32 w = decodeOp w := by
  simp [match32, h]

/-- Where `funct3`, or for a shift `funct3` and `funct7`, is given in digits, the row follows by the fields. -/
theorem decode_opImm {imm : BitVec 12} {rs1 : Reg} {f3 : BitVec 3} {rd : Reg} {i : Instr}
    (h : decodeOpImm (imm ++ rs1 ++ f3 ++ rd ++ 0b0010011#7) = some i := by simp [decodeOpImm]) :
    decode (.full (imm ++ rs1 ++ f3 ++ rd ++ 0b0010011#7)) = .ok i :=
  decode_full_of_match32 ((match32_of_opImm (opcode_append _ _)).trans h)

/-- Where `funct3` and `funct7` are given in digits, the row follows by the fields. -/
theorem decode_op {f7 : BitVec 7} {rs2 rs1 : Reg} {f3 : BitVec 3} {rd : Reg} {i : Instr}
    (h : decodeOp (f7 ++ rs2 ++ rs1 ++ f3 ++ rd ++ 0b0110011#7) = some i := by simp [decodeOp]) :
    decode (.full (f7 ++ rs2 ++ rs1 ++ f3 ++ rd ++ 0b0110011#7)) = .ok i :=
  decode_full_of_match32 ((match32_of_op (opcode_append _ _)).trans h)

/-! ## Immediate shifts with other upper bits (30 R192; 40 R242 to R244) -/

/-- With `funct3` = 001 OP-IMM has one row, SLLI. -/
theorem match32_shiftLeft_absent {f7 : BitVec 7} (h : f7 ≠ 0b0000000#7) (shamt rs1 rd : BitVec 5) :
    match32 (f7 ++ shamt ++ rs1 ++ 0b001#3 ++ rd ++ 0b0010011#7) = none := by
  rw [match32_of_opImm (opcode_append _ _)]
  simp [decodeOpImm, h]

/-- With `funct3` = 101 OP-IMM has two rows, SRLI and SRAI. -/
theorem match32_shiftRight_absent {f7 : BitVec 7} (hl : f7 ≠ 0b0000000#7) (ha : f7 ≠ 0b0100000#7)
    (shamt rs1 rd : BitVec 5) :
    match32 (f7 ++ shamt ++ rs1 ++ 0b101#3 ++ rd ++ 0b0010011#7) = none := by
  rw [match32_of_opImm (opcode_append _ _)]
  simp [decodeOpImm, hl, ha]

end Sys2Proof
end

section
/-! SUPPORT. The values that the integer computational instructions compute, as numbers and as bits
(spec/40_integer_computational.md R231 to R254). -/

namespace Sys2Proof.Machine

/-! ## Immediates and shift amounts (30 R183, R186; 40 R232) -/

/-- The U-immediate as a number. -/
theorem toNat_upperImm (imm20 : BitVec 20) : (upperImm imm20).toNat = imm20.toNat * 2 ^ 12 := by
  rw [upperImm, BitVec.toNat_append, Nat.shiftLeft_eq]
  exact Nat.or_zero _

theorem toInt_sext {n : Nat} (imm : BitVec n) (h : n ≤ 32) : (sext imm).toInt = imm.toInt :=
  BitVec.toInt_signExtend_of_le h

/-- The sign-extended immediate read as an unsigned number. -/
theorem toNat_sext {n : Nat} (imm : BitVec n) (h : n ≤ 32) : ((sext imm).toNat : Int) = imm.toInt % 2 ^ 32 := by
  have := (sext imm).isLt
  rw [← toInt_sext imm h, BitVec.toInt_eq_toNat_cond]
  split <;> omega

theorem getLsbD_sext (imm : BitVec 12) {k : Nat} (hk : k < 32) : (sext imm).getLsbD k = imm.getLsbD (min k 11) := by
  rw [sext, BitVec.getLsbD_signExtend]
  by_cases h : k < 12
  · have : min k 11 = k := by omega
    simp [*]
  · have : min k 11 = 11 := by omega
    simp [*, BitVec.msb_eq_getLsbD_last]

theorem shiftAmount_eq (v : Word) : shiftAmount v = v.toNat % 32 := by
  simp [shiftAmount]

/-! ## Sums and differences (40 R236, R245, R246) -/

/-- The sum with an immediate is the exact signed sum, wrapped to 32 bits. -/
theorem add_sext_eq_ofInt (v : Word) {n : Nat} (imm : BitVec n) (h : n ≤ 32) :
    v + sext imm = BitVec.ofInt 32 (v.toInt + imm.toInt) := by
  rw [BitVec.ofInt_add, BitVec.ofInt_toInt, ← toInt_sext imm h, BitVec.ofInt_toInt]

/-- The difference is the exact one modulo 2^32. -/
theorem toNat_sub_eq_emod (a b : Word) : ((a - b).toNat : Int) = (a.toNat - b.toNat : Int) % 2 ^ 32 := by
  have := b.isLt
  rw [BitVec.toNat_sub]
  omega

/-! ## Shifts (40 R232, R242 to R244, R247, R251, R252) -/

theorem toNat_shiftLeft (v : Word) (n : Nat) : (shiftLeft v n).toNat = v.toNat * 2 ^ n % 2 ^ 32 := by
  rw [shiftLeft, BitVec.toNat_shiftLeft, Nat.shiftLeft_eq]

theorem toNat_shiftRight (v : Word) (n : Nat) : (shiftRight v n).toNat = v.toNat / 2 ^ n := by
  rw [shiftRight, BitVec.toNat_ushiftRight, Nat.shiftRight_eq_div_pow]

/-- The quotient of an arithmetic shift rounds toward minus infinity. -/
theorem toInt_shiftRightArith (v : Word) (n : Nat) : (shiftRightArith v n).toInt = v.toInt / 2 ^ n := by
  rw [shiftRightArith, BitVec.toInt_sshiftRight, Int.shiftRight_eq_div_pow]
  norm_cast

/-! ## Comparisons (40 R231, R237, R238, R248, R249) -/

/-- A comparison as a register value is 1 or 0 by the condition that decides it. -/
theorem boolWord_eq_ite {b : Bool} {p : Prop} [Decidable p] (h : b = true ↔ p) :
    boolWord b = if p then 1#32 else 0#32 := by
  simp only [boolWord, h]

theorem lessSigned_iff (a b : Word) : lessSigned a b = true ↔ a.toInt < b.toInt := BitVec.slt_iff_toInt_lt

theorem lessUnsigned_iff (a b : Word) : lessUnsigned a b = true ↔ a.toNat < b.toNat := BitVec.ult_iff_lt

theorem lessSigned_sext_iff (a : Word) {n : Nat} (imm : BitVec n) (h : n ≤ 32) :
    lessSigned a (sext imm) = true ↔ a.toInt < imm.toInt := by
  rw [lessSigned_iff, toInt_sext imm h]

theorem lessUnsigned_sext_iff (a : Word) {n : Nat} (imm : BitVec n) (h : n ≤ 32) :
    lessUnsigned a (sext imm) = true ↔ (a.toNat : Int) < imm.toInt % 2 ^ 32 := by
  rw [lessUnsigned_iff, ← toNat_sext imm h, Nat.cast_lt]

end Sys2Proof.Machine
end

section
/-! SUPPORT. The integer computational instructions: each one has its row in the decoder and ends in a register write
(spec/40_integer_computational.md R231 to R254). -/

namespace Sys2Proof.Machine

/-- A word that matches no row runs as the illegal-instruction exception (30 R210). -/
theorem runEncoded_of_match32_none (s : State) {w : BitVec 32} (h : match32 w = none) :
    runEncoded s (.full w) = takeIllegal s w := by
  obtain ⟨err, he⟩ := decode_full_of_match32_none h
  rw [runEncoded, he]
  rfl

/-- Settles O1: the rows by their fields, and the values as sums and differences. -/
theorem addSubResults : Obligations.AddSubResults := by
  refine fun s rd rs1 rs2 imm imm20 => ⟨⟨decode_lui rd imm20, ?lui⟩, ⟨decode_auipc rd imm20, ?auipc⟩,
    ⟨decode_opImm, ?addi⟩, ⟨decode_op, ?add⟩, ⟨decode_op, ?sub⟩⟩
  case lui => exact writeAndRetire_computed (toNat_upperImm imm20)
  case auipc => exact writeAndRetire_computed (by rw [BitVec.toNat_add, toNat_upperImm])
  case addi => exact writeAndRetire_computed (add_sext_eq_ofInt _ imm (by decide))
  case add => exact writeAndRetire_computed (BitVec.toNat_add _ _)
  case sub => exact writeAndRetire_computed (toNat_sub_eq_emod _ _)

/-- Settles O2: the rows by their fields, and the values bit by bit. -/
theorem logicResults : Obligations.LogicResults := by
  refine fun s rd rs1 rs2 imm => ⟨⟨decode_opImm, ?xori⟩, ⟨decode_opImm, ?ori⟩, ⟨decode_opImm, ?andi⟩,
    ⟨decode_op, ?xor⟩, ⟨decode_op, ?or⟩, ⟨decode_op, ?and⟩⟩
  case xori => exact writeAndRetire_computed fun k hk => by rw [BitVec.getLsbD_xor, getLsbD_sext imm hk]
  case ori => exact writeAndRetire_computed fun k hk => by rw [BitVec.getLsbD_or, getLsbD_sext imm hk]
  case andi => exact writeAndRetire_computed fun k hk => by rw [BitVec.getLsbD_and, getLsbD_sext imm hk]
  case xor => exact writeAndRetire_computed fun k _ => BitVec.getLsbD_xor
  case or => exact writeAndRetire_computed fun k _ => BitVec.getLsbD_or
  case and => exact writeAndRetire_computed fun k _ => BitVec.getLsbD_and

/-- Settles O3: the rows by their fields, the values as products and quotients, and no row for other upper bits. -/
theorem shiftResults : Obligations.ShiftResults := by
  refine fun s rd rs1 rs2 shamt f => ⟨⟨decode_opImm, ?leftIllegal, ?slli⟩,
    ⟨decode_opImm, ?rightIllegal, ?srli⟩, ⟨decode_opImm, ?srai⟩, ⟨decode_op, ?sll⟩, ⟨decode_op, ?srl⟩,
    ⟨decode_op, ?sra⟩⟩
  case leftIllegal => exact fun hf => runEncoded_of_match32_none s (match32_shiftLeft_absent hf shamt rs1 rd)
  case rightIllegal => exact fun hl ha => runEncoded_of_match32_none s (match32_shiftRight_absent hl ha shamt rs1 rd)
  case slli => exact writeAndRetire_computed (toNat_shiftLeft _ _)
  case srli => exact writeAndRetire_computed (toNat_shiftRight _ _)
  case srai => exact writeAndRetire_computed (toInt_shiftRightArith _ _)
  case sll => exact writeAndRetire_computed (by rw [toNat_shiftLeft, shiftAmount_eq])
  case srl => exact writeAndRetire_computed (by rw [toNat_shiftRight, shiftAmount_eq])
  case sra => exact writeAndRetire_computed (by rw [toInt_shiftRightArith, shiftAmount_eq])

/-- Settles O4: the rows by their fields, and the values by the orders. -/
theorem compareResults : Obligations.CompareResults := by
  refine fun s rd rs1 rs2 imm => ⟨⟨decode_opImm, ?slti⟩, ⟨decode_opImm, ?sltiu⟩, ⟨decode_op, ?slt⟩,
    ⟨decode_op, ?sltu⟩⟩
  case slti => exact writeAndRetire_computed (boolWord_eq_ite (lessSigned_sext_iff _ imm (by decide)))
  case sltiu => exact writeAndRetire_computed (boolWord_eq_ite (lessUnsigned_sext_iff _ imm (by decide)))
  case slt => exact writeAndRetire_computed (boolWord_eq_ite (lessSigned_iff _ _))
  case sltu => exact writeAndRetire_computed (boolWord_eq_ite (lessUnsigned_iff _ _))

end Sys2Proof.Machine
end

section
/-! SUPPORT. The immediates of the B and J formats of a word written out as the concatenation of its fields, and the
rows of JAL, JALR and BRANCH (spec/30_encoding.md R185, R187, R190, R194). -/

namespace Sys2Proof

/-! ## The fields of a word of the B and J formats (30 R185, R187) -/

@[simp] theorem immJ_append (o20 : BitVec 1) (o10 : BitVec 10) (o11 : BitVec 1) (o19 : BitVec 8) (rd : Reg)
    (op : BitVec 7) : immJ (o20 ++ o10 ++ o11 ++ o19 ++ rd ++ op) = o20 ++ o19 ++ o11 ++ o10 ++ 0#1 := by
  simp (disch := decide) only [immJ, extract_append_low, extract_append_high, Nat.reduceSub, extract_self]

@[simp] theorem immB_append (o12 : BitVec 1) (o10 : BitVec 6) (rs2 rs1 : Reg) (f3 : BitVec 3) (o4 : BitVec 4)
    (o11 : BitVec 1) (op : BitVec 7) :
    immB (o12 ++ o10 ++ rs2 ++ rs1 ++ f3 ++ o4 ++ o11 ++ op) = o12 ++ o11 ++ o10 ++ o4 ++ 0#1 := by
  simp (disch := decide) only [immB, extract_append_low, extract_append_high, Nat.reduceSub, extract_self]

/-- The B format has two fields of its offset where the other formats have `rd` (30 R185). -/
theorem append_offset_fields (high : BitVec 20) (o4 : BitVec 4) (o11 : BitVec 1) (op : BitVec 7) :
    high ++ o4 ++ o11 ++ op = high ++ (o4 ++ o11 : BitVec 5) ++ op :=
  congrArg (· ++ op) (BitVec.append_assoc (x₁ := high) (x₂ := o4) (x₃ := o11))

@[simp] theorem funct3_append_branch (high : BitVec 17) (f3 : BitVec 3) (o4 : BitVec 4) (o11 : BitVec 1)
    (op : BitVec 7) : funct3 (high ++ f3 ++ o4 ++ o11 ++ op) = f3 := by
  rw [append_offset_fields (high ++ f3), funct3_append]

@[simp] theorem rs1Field_append_branch (high : BitVec 12) (rs1 : Reg) (f3 : BitVec 3) (o4 : BitVec 4)
    (o11 : BitVec 1) (op : BitVec 7) : rs1Field (high ++ rs1 ++ f3 ++ o4 ++ o11 ++ op) = rs1 := by
  rw [append_offset_fields (high ++ rs1 ++ f3), rs1Field_append]

@[simp] theorem rs2Field_append_branch (o12 : BitVec 1) (o10 : BitVec 6) (rs2 rs1 : Reg) (f3 : BitVec 3)
    (o4 : BitVec 4) (o11 : BitVec 1) (op : BitVec 7) :
    rs2Field (o12 ++ o10 ++ rs2 ++ rs1 ++ f3 ++ o4 ++ o11 ++ op) = rs2 := by
  rw [append_offset_fields (o12 ++ o10 ++ rs2 ++ rs1 ++ f3), rs2Field_append (o12 ++ o10)]

/-! ## The rows of JAL, JALR and BRANCH (30 R190, R194) -/

theorem decode_jal (o20 : BitVec 1) (o10 : BitVec 10) (o11 : BitVec 1) (o19 : BitVec 8) (rd : Reg) :
    decode (.full (o20 ++ o10 ++ o11 ++ o19 ++ rd ++ 0b1101111#7)) =
      .ok (.jal rd (o20 ++ o19 ++ o11 ++ o10 ++ 0#1)) :=
  decode_full_of_match32 (by simp [match32])

theorem decode_jalr (imm : BitVec 12) (rs1 rd : Reg) :
    decode (.full (imm ++ rs1 ++ 0b000#3 ++ rd ++ 0b1100111#7)) = .ok (.jalr rd rs1 imm) :=
  decode_full_of_match32 (by simp [match32])

/-- The major opcode JALR has one row. -/
theorem match32_jalr_absent {f3 : BitVec 3} (h : f3 ≠ 0b000#3) (imm : BitVec 12) (rs1 rd : Reg) :
    match32 (imm ++ rs1 ++ f3 ++ rd ++ 0b1100111#7) = none := by
  simp [match32, h]

theorem match32_of_branch {w : BitVec 32} (h : opcode w = 0b1100011#7) : match32 w = decodeBranch w := by
  simp [match32, h]

/-- Where `funct3` is given in digits, the row follows by the fields. -/
theorem decode_branch {o12 : BitVec 1} {o10 : BitVec 6} {rs2 rs1 : Reg} {f3 : BitVec 3} {o4 : BitVec 4}
    {o11 : BitVec 1} {i : Instr}
    (h : decodeBranch (o12 ++ o10 ++ rs2 ++ rs1 ++ f3 ++ o4 ++ o11 ++ 0b1100011#7) = some i := by
      simp [decodeBranch]) :
    decode (.full (o12 ++ o10 ++ rs2 ++ rs1 ++ f3 ++ o4 ++ o11 ++ 0b1100011#7)) = .ok i :=
  decode_full_of_match32 ((match32_of_branch (opcode_append _ _)).trans h)

end Sys2Proof
end

section
/-! SUPPORT. The targets of the jumps and the conditions of the branches (spec/41_control_transfer.md R270 to R280). -/

namespace Sys2Proof.Machine

/-! ## Jumps (41 R273, R274) -/

/-- Clearing bit 0 shifts it out and back in as 0. -/
theorem clearBit0_eq_shift (a : Word) : clearBit0 a = a >>> 1 <<< 1 := by
  have hmask : 0xFFFFFFFE#32 = BitVec.allOnes 32 <<< 1 := by decide
  rw [clearBit0, hmask, BitVec.shiftLeft_ushiftRight]

theorem toNat_clearBit0 (a : Word) : (clearBit0 a).toNat = a.toNat / 2 * 2 := by
  have := a.isLt
  rw [clearBit0_eq_shift, BitVec.toNat_shiftLeft, BitVec.toNat_ushiftRight, Nat.shiftLeft_eq,
    Nat.shiftRight_eq_div_pow]
  omega

/-- Clearing bit 0 of a wrapped number rounds the number down to an even one. -/
theorem clearBit0_ofInt (n : Int) : clearBit0 (BitVec.ofInt 32 n) = BitVec.ofInt 32 (n / 2 * 2) := by
  apply BitVec.eq_of_toNat_eq
  rw [toNat_clearBit0, BitVec.toNat_ofInt, BitVec.toNat_ofInt]
  omega

/-- Settles O8: the rows by their fields, and the targets as exact sums wrapped to 32 bits. -/
theorem jumpResults : Obligations.JumpResults := by
  refine fun s rd rs1 imm offset f o20 o11 o10 o19 => ⟨decode_jal o20 o10 o11 o19 rd, ?jal, decode_jalr imm rs1 rd,
    ?illegal, ?jalr⟩
  case jal =>
    rw [← add_sext_eq_ofInt s.pc offset (by decide)]
    exact jumpAndLink_jumped s rd _ 4#32
  case illegal => exact fun hf => runEncoded_of_match32_none s (match32_jalr_absent hf imm rs1 rd)
  case jalr =>
    rw [← clearBit0_ofInt, ← add_sext_eq_ofInt (readReg s rs1) imm (by decide)]
    exact jumpAndLink_jumped s rd _ 4#32

/-! ## Branches (41 R275 to R280) -/

/-- A branch on a comparison goes to the exact sum, wrapped, if the condition it decides holds. -/
theorem branch_wentTo_if {s : State} {c : Bool} {p : Prop} [Decidable p] (h : c = true ↔ p) (offset : BitVec 13) :
    ∃ t, branch s c (sext offset) 4#32 = .next t ∧
      WentTo s t (if p then BitVec.ofInt 32 (s.pc.toInt + offset.toInt) else s.pc + 4#32) := by
  rw [← add_sext_eq_ofInt s.pc offset (by decide)]
  simpa only [h] using branch_wentTo s c (sext offset) 4#32

/-- A branch on the failure of a comparison goes there unless the condition holds. -/
theorem branch_wentTo_unless {s : State} {c : Bool} {p : Prop} [Decidable p] (h : c = true ↔ p)
    (offset : BitVec 13) :
    ∃ t, branch s (!c) (sext offset) 4#32 = .next t ∧
      WentTo s t (if p then s.pc + 4#32 else BitVec.ofInt 32 (s.pc.toInt + offset.toInt)) := by
  rw [← ite_not]
  exact branch_wentTo_if (by rw [Bool.not_eq_true', ← Bool.not_eq_true, h]) offset

/-- Settles O9: the rows by their fields, and the conditions by equality and the orders. -/
theorem branchResults : Obligations.BranchResults := by
  rintro s rs1 rs2 offset o12 o11 o10 o4 a b taken next rfl rfl rfl rfl
  refine ⟨⟨decode_branch, ?beq⟩, ⟨decode_branch, ?bne⟩, ⟨decode_branch, ?blt⟩, ⟨decode_branch, ?bge⟩,
    ⟨decode_branch, ?bltu⟩, ⟨decode_branch, ?bgeu⟩⟩
  case beq => exact branch_wentTo_if beq_iff_eq offset
  case bne => exact branch_wentTo_unless beq_iff_eq offset
  case blt => exact branch_wentTo_if (lessSigned_iff _ _) offset
  case bge => exact branch_wentTo_unless (lessSigned_iff _ _) offset
  case bltu => exact branch_wentTo_if (lessUnsigned_iff _ _) offset
  case bgeu => exact branch_wentTo_unless (lessUnsigned_iff _ _) offset

end Sys2Proof.Machine
end

section
/-! SUPPORT. The checks of a CSR access: where no CSR stands, what each check stops, and the registers that every write
leaves as they are (spec/10_state.md R51, R101, R104; spec/43_system_and_csr.md R326, R327). -/

namespace Sys2Proof.Machine

/-! ## The addresses of the CSRs (10 R51, R104) -/

/-- Below 0x300 are the addresses of the lower privileges, which the E20 lacks. -/
theorem csrOf_eq_none_of_lt {a : BitVec 12} (h : a.toNat < 0x300) : csrOf a = none := by
  have hne : ∀ k : BitVec 12, 0x300 ≤ k.toNat → a ≠ k := by rintro k hk rfl; omega
  have hnle : ∀ k : BitVec 12, 0x300 ≤ k.toNat → ¬ k ≤ a := fun k hk => by rw [BitVec.le_def]; omega
  simp (disch := decide) only [csrOf, hne, hnle, false_and, or_self, if_false]

/-- In the block of the debug-mode addresses stand debug-mode CSRs only. -/
theorem isDebugOnly_of_block : ∀ low : BitVec 4, (csrOf (0x7B#8 ++ low)).all isDebugOnly = true := by decide

theorem isDebugOnly_of_csrOf {a : BitVec 12} {c : Csr} (h : csrOf a = some c) (hlow : 0x7B0 ≤ a.toNat)
    (hhigh : a.toNat ≤ 0x7BF) : isDebugOnly c = true := by
  have hblock : a.extractLsb' 4 8 = 0x7B#8 := by
    apply BitVec.eq_of_toNat_eq
    rw [BitVec.extractLsb'_toNat, Nat.shiftRight_eq_div_pow, BitVec.toNat_ofNat]
    omega
  have ha : 0x7B#8 ++ a.extractLsb' 0 4 = a := by rw [← hblock, extract_join a 0 4 8, extract_self]
  have hall := isDebugOnly_of_block (a.extractLsb' 0 4)
  rwa [ha, h] at hall

/-! ## The checks, one by one (43 R327) -/

theorem csrCheck_of_absent {s : State} {a : BitVec 12} (h : csrOf a = none) (writes : Bool) :
    csrCheck s a writes = .illegal := by
  simp only [csrCheck, h]

theorem csrCheck_of_debugOnly {s : State} {a : BitVec 12} {c : Csr} (h : csrOf a = some c) (hc : isDebugOnly c = true)
    (hmode : s.debugMode = false) (writes : Bool) : csrCheck s a writes = .illegal := by
  simp [csrCheck, h, hc, hmode]

/-- Outside debug mode the whole block of the debug-mode addresses is illegal. -/
theorem csrCheck_of_debugBlock {s : State} {a : BitVec 12} (hlow : 0x7B0 ≤ a.toNat) (hhigh : a.toNat ≤ 0x7BF)
    (hmode : s.debugMode = false) (writes : Bool) : csrCheck s a writes = .illegal := by
  cases h : csrOf a with
  | none => exact csrCheck_of_absent h writes
  | some c => exact csrCheck_of_debugOnly h (isDebugOnly_of_csrOf h hlow hhigh) hmode writes

/-- A read-only address is not written, whether a CSR stands there or not. -/
theorem csrCheck_of_readOnly (s : State) {a : BitVec 12} (h : a.extractLsb' 10 2 = 0b11#2) :
    csrCheck s a true = .illegal := by
  cases hc : csrOf a with
  | none => exact csrCheck_of_absent hc true
  | some c => simp [csrCheck, hc, h]

/-- The registers of a trigger that debug mode owns are out of reach outside it (10 R101). -/
theorem csrCheck_of_ownedTrigger {s : State} {a : BitVec 12} {c : Csr} (h : csrOf a = some c) (hc : isTdata c = true)
    (hmode : s.debugMode = false) (hown : (selectedTrigger s).dmode = true) (writes : Bool) :
    csrCheck s a writes = .illegal := by
  simp [csrCheck, h, hc, hmode, hown]

/-! ## Registers that every write leaves as they are (10 R67; 43 R327) -/

theorem plainAt_misa : PlainAt 0x301#12 .misa := by constructor <;> decide
theorem plainAt_mintstatus : PlainAt 0x346#12 .mintstatus := by constructor <;> decide

/-- Each of the three stands at one address. -/
theorem plainAt_of_ignoresWrites {a : BitVec 12} {c : Csr} (h : csrOf a = some c)
    (hc : c = .mip ∨ c = .mintstatus ∨ c = .misa) : PlainAt a c := by
  rcases hc with rfl | rfl | rfl <;>
    simp only [csrOf, ite_eq_iff, Option.some.injEq, reduceCtorEq, and_false, and_true, false_or, or_false] at h
  · obtain rfl : a = 0x344#12 := by simp only [h]
    exact plainAt_mip
  · obtain rfl : a = 0x346#12 := by simp only [h]
    exact plainAt_mintstatus
  · obtain rfl : a = 0x301#12 := by simp only [h]
    exact plainAt_misa

theorem csrUpdate_of_ignoresWrites (s : State) {i : CsrAccess} {c : Csr} (h : PlainAt i.csr c)
    (hc : c = .mip ∨ c = .mintstatus ∨ c = .misa) : csrUpdate s i c = .ok s := by
  have hwrite : ∀ v, csrWrite s v c = .ok s := by rcases hc with rfl | rfl | rfl <;> exact fun _ => rfl
  rw [h.csrUpdate, hwrite, ite_self]

/-! ## The six instructions (43 R320 to R327) -/

/-- The access that a CSR instruction makes. -/
theorem exists_access {i : Instr} {csr : BitVec 12} {writes : Bool} (h : AccessesCsr i csr writes) (s : State) :
    ∃ j : CsrAccess, exec i s = csrInstruction s j ∧ j.csr = csr ∧ j.writes = writes ∧ j.bits = (encode i).bits ∧
      ∀ rd, CsrInto i rd → j.rd = rd := by
  cases h <;> exact ⟨_, rfl, rfl, rfl, rfl, fun _ hrd => by cases hrd; rfl⟩

/-- An instruction whose access fails a check takes the exception, with its own bits or 0 as the trap value. -/
theorem takesIllegal_of_csrCheck {s : State} {i : Instr} {csr : BitVec 12} {writes : Bool}
    (hi : AccessesCsr i csr writes) (h : HandlerAligned s) (hcheck : csrCheck s csr writes = .illegal) :
    ∃ tval, (tval = 0#32 ∨ tval = (encode i).bits) ∧ TakesException i s 2#10 tval := by
  obtain ⟨j, hexec, rfl, rfl, hbits, -⟩ := exists_access hi s
  obtain ⟨t, tval, ht, htval, hentered⟩ := takeIllegal_entered h j.bits
  rw [hbits] at htval
  exact ⟨tval, htval, t, by rw [hexec, csrInstruction_illegal hcheck, ht], hentered⟩

/-- Settles O30: every condition of the first part fails a check, and the three registers of the second are plain ones
whose update is nothing. -/
theorem csrChecks : Obligations.CsrChecks := by
  refine fun s i csr writes hi => ⟨fun haligned hcond => takesIllegal_of_csrCheck hi haligned ?illegal, ?ignored⟩
  case illegal =>
    rcases hcond with habsent | rfl | rfl | hlow | ⟨hlow, hhigh, hmode⟩ | ⟨rfl, hreadOnly⟩ | ⟨haddr, hmode, hown⟩
    · exact csrCheck_of_absent habsent writes
    · exact csrCheck_of_absent rfl writes
    · exact csrCheck_of_absent rfl writes
    · exact csrCheck_of_absent (csrOf_eq_none_of_lt hlow) writes
    · exact csrCheck_of_debugBlock hlow hhigh hmode writes
    · exact csrCheck_of_readOnly s hreadOnly
    · rcases haddr with rfl | rfl | rfl <;> exact csrCheck_of_ownedTrigger rfl rfl hmode hown writes
  case ignored =>
    intro rd c hrd hc hignores
    obtain ⟨j, hexec, rfl, -, -, hj⟩ := exists_access hi s
    obtain rfl := hj rd hrd
    have hplain := plainAt_of_ignoresWrites hc hignores
    rw [hexec]
    exact csrInstruction_computed hplain (csrUpdate_of_ignoresWrites s hplain hignores) rfl

end Sys2Proof.Machine
end

section
/-! SUPPORT. The row of FENCE and that of C.NOP, from the fields of their encodings (spec/30_encoding.md R189, R195,
R202). -/

namespace Sys2Proof

/-! ## MISC-MEM (30 R195) -/

theorem match32_of_miscMem {w : BitVec 32} (h : opcode w = 0b0001111#7) : match32 w = decodeMiscMem w := by
  simp [match32, h]

/-- FENCE has three sets of four where the I format has its immediate (43 R310). -/
theorem decodeMiscMem_fence (fm pred succ : BitVec 4) (rs1 rd : Reg) (op : BitVec 7) :
    decodeMiscMem (fm ++ pred ++ succ ++ rs1 ++ 0b000#3 ++ rd ++ op) = some (.fence fm pred succ rs1 rd) := by
  simp (disch := decide) only [decodeMiscMem, funct3, rs1Field, rdField, extract_append_low, extract_append_high,
    Nat.reduceSub, extract_self, if_true]

theorem decode_fence (fm pred succ : BitVec 4) (rs1 rd : Reg) :
    decode (.full (fm ++ pred ++ succ ++ rs1 ++ 0b000#3 ++ rd ++ 0b0001111#7)) = .ok (.fence fm pred succ rs1 rd) :=
  decode_full_of_match32 ((match32_of_miscMem (opcode_append _ _)).trans (decodeMiscMem_fence fm pred succ rs1 rd _))

/-! ## C.NOP (30 R202; 45 R365) -/

theorem decode_half_of_match16 {w : BitVec 16} {i : Instr} (h : match16 w = some i) : decode (.half w) = .ok i := by
  simp [decode, decode16, h]

theorem decode_cNop (i5 : BitVec 1) (i4 : BitVec 5) :
    decode (.half (0b000#3 ++ i5 ++ 0b00000#5 ++ i4 ++ 0b01#2)) = .ok (.cNop (i5 ++ i4)) := by
  refine decode_half_of_match16 ((match16_of_quadrant1 ?quadrant).trans ?row)
  case quadrant => rw [extract_append_low _ 0b01#2 0 2 (by decide), extract_self]
  case row =>
    simp (disch := decide) only [decodeQ1, crd, cimm6, extract_append_low, extract_append_high, Nat.reduceSub,
      extract_self, if_true]

end Sys2Proof
end

section
/-! SUPPORT. The instructions that only go on, and the environment call (spec/43_system_and_csr.md R310, R312;
spec/45_c_extension.md R365). -/

namespace Sys2Proof.Machine

/-- Settles O19: both decode by their fields, and their whole meaning is to retire. -/
theorem fencesAndNops : Obligations.FencesAndNops := by
  refine fun s fm pred succ rs1 rd i5 i4 imm => ⟨decode_fence fm pred succ rs1 rd, ?fence, decode_cNop i5 i4, ?nop⟩
  case fence => exact ⟨_, rfl, retire_wentTo s (s.pc + 4#32)⟩
  case nop => exact ⟨_, rfl, retire_wentTo s (s.pc + 2#32)⟩

/-- Settles O21: ECALL is the entry of its exception, from which the registers and the count are as before. -/
theorem ecallTraps : Obligations.EcallTraps :=
  ⟨rfl, fun _ h => takeException_entered h .environmentCallFromM 0#32⟩

end Sys2Proof.Machine
end

section
/-! SUPPORT. The values that the multiplications and divisions compute, as exact products, quotients and remainders
(spec/44_m_extension.md R340 to R351). -/

namespace Sys2Proof.Machine

/-! ## Products (44 R342 to R345) -/

/-- The high half of a doubleword, read as signed, is the doubleword divided by 2^32, rounded down. -/
theorem toInt_extract_high (p : BitVec 64) : (p.extractLsb' 32 32).toInt = p.toInt / 2 ^ 32 := by
  have := p.isLt
  rw [BitVec.toInt_eq_toNat_cond, BitVec.toInt_eq_toNat_cond, BitVec.extractLsb'_toNat, Nat.shiftRight_eq_div_pow]
  omega

/-- Operands that came from words do not overflow the signed 64-bit product, even if one of them is unsigned. -/
theorem toInt_mul_of_word_bounds {a b : BitVec 64} (ha : |a.toInt| ≤ 2 ^ 31) (hb : |b.toInt| < 2 ^ 32) :
    (a * b).toInt = a.toInt * b.toInt := by
  have hprod : |a.toInt * b.toInt| < 2 ^ 63 := by
    calc |a.toInt * b.toInt| = |a.toInt| * |b.toInt| := abs_mul _ _
      _ ≤ 2 ^ 31 * |b.toInt| := mul_le_mul_of_nonneg_right ha (abs_nonneg _)
      _ < 2 ^ 63 := by omega
  obtain ⟨hlow, hhigh⟩ := abs_lt.mp hprod
  rw [BitVec.toInt_mul, Int.bmod_eq_of_le (by omega) (by omega)]

theorem toInt_highProduct {a b : BitVec 64} (ha : |a.toInt| ≤ 2 ^ 31) (hb : |b.toInt| < 2 ^ 32) :
    (highProduct a b).toInt = a.toInt * b.toInt / 2 ^ 32 := by
  rw [highProduct, toInt_extract_high, toInt_mul_of_word_bounds ha hb]

theorem toInt_signExtend_word (a : Word) : (a.signExtend 64).toInt = a.toInt :=
  BitVec.toInt_signExtend_of_le (by decide)

theorem toInt_setWidth_word (a : Word) : (a.setWidth 64).toInt = a.toNat := by
  have := a.isLt
  rw [BitVec.toInt_setWidth, Int.bmod_eq_of_le (by omega) (by omega)]

theorem abs_toInt_signExtend_le (a : Word) : |(a.signExtend 64).toInt| ≤ 2 ^ 31 := by
  rw [toInt_signExtend_word, abs_le]
  exact ⟨a.le_toInt, a.toInt_lt.le⟩

theorem abs_toInt_setWidth_lt (a : Word) : |(a.setWidth 64).toInt| < 2 ^ 32 := by
  rw [toInt_setWidth_word, Nat.abs_cast]
  exact_mod_cast a.isLt

/-- MULH: both operands signed. -/
theorem toInt_highProduct_signed (a b : Word) :
    (highProduct (a.signExtend 64) (b.signExtend 64)).toInt = a.toInt * b.toInt / 2 ^ 32 := by
  rw [toInt_highProduct (abs_toInt_signExtend_le a) ((abs_toInt_signExtend_le b).trans_lt (by decide)),
    toInt_signExtend_word, toInt_signExtend_word]

/-- MULHSU: the second operand unsigned. -/
theorem toInt_highProduct_signedUnsigned (a b : Word) :
    (highProduct (a.signExtend 64) (b.setWidth 64)).toInt = a.toInt * (b.toNat : Int) / 2 ^ 32 := by
  rw [toInt_highProduct (abs_toInt_signExtend_le a) (abs_toInt_setWidth_lt b), toInt_signExtend_word,
    toInt_setWidth_word]

/-- MULHU: both operands unsigned. -/
theorem toNat_highProduct_unsigned (a b : Word) :
    (highProduct (a.setWidth 64) (b.setWidth 64)).toNat = a.toNat * b.toNat / 2 ^ 32 := by
  have hprod : a.toNat * b.toNat < 2 ^ 32 * 2 ^ 32 := Nat.mul_lt_mul'' a.isLt b.isLt
  have ha : (a.setWidth 64).toNat = a.toNat := BitVec.toNat_setWidth_of_le (by decide)
  have hb : (b.setWidth 64).toNat = b.toNat := BitVec.toNat_setWidth_of_le (by decide)
  rw [highProduct, BitVec.extractLsb'_toNat, Nat.shiftRight_eq_div_pow, BitVec.toNat_mul, ha, hb]
  omega

/-! ## Quotients and remainders (44 R347 to R351) -/

/-- The only signed quotient of words that is not a word is that of the most negative word by -1. -/
theorem toInt_ofInt_tdiv {a b : Word} (h : ¬(a = 0x80000000#32 ∧ b = 0xFFFFFFFF#32)) :
    (BitVec.ofInt 32 (a.toInt.tdiv b.toInt)).toInt = a.toInt.tdiv b.toInt := by
  rw [BitVec.toInt_ofInt, ← BitVec.toInt_sdiv]
  exact BitVec.toInt_sdiv_of_ne_or_ne a b (not_and_or.mp h)

/-- The signed remainder of words is always a word. -/
theorem toInt_ofInt_sub_mul_tdiv (a b : Word) :
    (BitVec.ofInt 32 (a.toInt - b.toInt * a.toInt.tdiv b.toInt)).toInt =
      a.toInt - b.toInt * a.toInt.tdiv b.toInt := by
  rw [← Int.tmod_def, ← BitVec.toInt_srem, BitVec.ofInt_toInt]

/-- DIV, by the divisor zero, the overflow, and all other operands. -/
theorem quotientSigned_cases (a b : Word) :
    if b = 0#32 then quotientSigned a b = 0xFFFFFFFF#32
    else if a = 0x80000000#32 ∧ b = 0xFFFFFFFF#32 then quotientSigned a b = 0x80000000#32
    else (quotientSigned a b).toInt = a.toInt.tdiv b.toInt := by
  rw [quotientSigned]
  split
  case isTrue => rfl
  case isFalse =>
    split
    case isTrue => rfl
    case isFalse hoverflow => exact toInt_ofInt_tdiv hoverflow

/-- REM, by the divisor zero, the overflow, and all other operands. -/
theorem remainderSigned_cases (a b : Word) :
    if b = 0#32 then remainderSigned a b = a
    else if a = 0x80000000#32 ∧ b = 0xFFFFFFFF#32 then remainderSigned a b = 0#32
    else (remainderSigned a b).toInt = a.toInt - b.toInt * a.toInt.tdiv b.toInt := by
  rw [remainderSigned]
  split
  case isTrue => rfl
  case isFalse =>
    split
    case isTrue => rfl
    case isFalse => exact toInt_ofInt_sub_mul_tdiv a b

/-- DIVU, by the divisor zero and all others. -/
theorem quotientUnsigned_cases (a b : Word) :
    if b = 0#32 then quotientUnsigned a b = 0xFFFFFFFF#32 else (quotientUnsigned a b).toNat = a.toNat / b.toNat := by
  rw [quotientUnsigned]
  split
  case isTrue => rfl
  case isFalse => rw [← BitVec.udiv_def, BitVec.toNat_udiv]

/-- REMU, by the divisor zero and all others. -/
theorem remainderUnsigned_cases (a b : Word) :
    if b = 0#32 then remainderUnsigned a b = a else (remainderUnsigned a b).toNat = a.toNat % b.toNat := by
  rw [remainderUnsigned]
  split
  case isTrue => rfl
  case isFalse => rw [← BitVec.umod_def, BitVec.toNat_umod]

end Sys2Proof.Machine
end

section
/-! SUPPORT. The multiplications and divisions: each one has its row in the decoder and ends in a register write
(spec/44_m_extension.md R340 to R351). -/

namespace Sys2Proof.Machine

/-- Settles O5: the rows by their fields, and the values as words of the exact product. -/
theorem multiplyResults : Obligations.MultiplyResults := by
  refine fun s rd rs1 rs2 => ⟨⟨decode_op, ?mul⟩, ⟨decode_op, ?mulh⟩, ⟨decode_op, ?mulhsu⟩, ⟨decode_op, ?mulhu⟩⟩
  case mul => exact writeAndRetire_computed (BitVec.toNat_mul _ _)
  case mulh => exact writeAndRetire_computed (toInt_highProduct_signed _ _)
  case mulhsu => exact writeAndRetire_computed (toInt_highProduct_signedUnsigned _ _)
  case mulhu => exact writeAndRetire_computed (toNat_highProduct_unsigned _ _)

/-- Settles O6: the rows by their fields, and the values by the special operands and all others. -/
theorem divideResults : Obligations.DivideResults := by
  rintro s rd rs1 rs2 _ _ rfl rfl
  refine ⟨⟨decode_op, ?div⟩, ⟨decode_op, ?divu⟩, ⟨decode_op, ?rem⟩, ⟨decode_op, ?remu⟩⟩
  case div => exact writeAndRetire_computed (quotientSigned_cases _ _)
  case divu => exact writeAndRetire_computed (quotientUnsigned_cases _ _)
  case rem => exact writeAndRetire_computed (remainderSigned_cases _ _)
  case remu => exact writeAndRetire_computed (remainderUnsigned_cases _ _)

end Sys2Proof.Machine
end

section
/-! SUPPORT. The rows of the compressed instructions, from the fields of their encodings (spec/30_encoding.md R200 to
R204; spec/45_c_extension.md R362 to R387). -/

namespace Sys2Proof

/-! ## Quadrants (30 R202) -/

/-- The quadrant is the last field. -/
theorem quadrant_append (high : BitVec 14) (q : BitVec 2) : (high ++ q).extractLsb' 0 2 = q := by
  rw [extract_append_low high q 0 2 (by decide), extract_self]

theorem match16_append_quadrant0 (high : BitVec 14) : match16 (high ++ 0b00#2) = decodeQ0 (high ++ 0b00#2) :=
  match16_of_quadrant0 (quadrant_append high 0b00#2)

theorem match16_append_quadrant1 (high : BitVec 14) : match16 (high ++ 0b01#2) = decodeQ1 (high ++ 0b01#2) :=
  match16_of_quadrant1 (quadrant_append high 0b01#2)

theorem match16_append_quadrant2 (high : BitVec 14) : match16 (high ++ 0b10#2) = decodeQ2 (high ++ 0b10#2) :=
  match16_of_quadrant2 (quadrant_append high 0b10#2)

/-! ## Rows selected by digits (30 R202, R203) -/

/-- In quadrant 01 the row follows by the fields, where those that select it are given in digits or by hypotheses at
hand. -/
theorem decode_quadrant1 {high : BitVec 14} {i : Instr}
    (h : decodeQ1 (high ++ 0b01#2) = some i := by
      simp (disch := decide) only [decodeQ1, decodeQ1Alu, crd, crs2, cregLow, cregHigh, cimm6, cimmJ, cimmB, cimmLui,
        extract_append_low, extract_append_high, extract_self, Nat.reduceSub, BitVec.reduceExtractLsb',
        BitVec.reduceEq, ↓reduceIte, *]) :
    decode (.half (high ++ 0b01#2)) = .ok i :=
  decode_half_of_match16 ((match16_append_quadrant1 high).trans h)

/-- The same in quadrant 10. -/
theorem decode_quadrant2 {high : BitVec 14} {i : Instr}
    (h : decodeQ2 (high ++ 0b10#2) = some i := by
      simp (disch := decide) only [decodeQ2, crd, crs2, extract_append_low, extract_append_high, extract_self,
        Nat.reduceSub, BitVec.reduceExtractLsb', BitVec.reduceEq, ↓reduceIte, *]) :
    decode (.half (high ++ 0b10#2)) = .ok i :=
  decode_half_of_match16 ((match16_append_quadrant2 high).trans h)

/-! ## Rows that an immediate of several fields selects (30 R204; 45 R362, R369) -/

theorem decodeQ0_addi4spn {w : BitVec 16} (hf : w.extractLsb' 13 3 = 0b000#3) (himm : w.extractLsb' 5 8 ≠ 0#8) :
    decodeQ0 w = some (.cAddi4spn (cregLow w) (cimmAddi4spn w)) := by
  have hw : w ≠ 0x0000#16 := by rintro rfl; exact himm (by decide)
  simp only [decodeQ0, hw, hf, himm, if_true, if_false]

theorem decodeQ1_addi16sp {w : BitVec 16} (hf : w.extractLsb' 13 3 = 0b011#3) (himm : cimm6 w ≠ 0#6)
    (hrd : crd w = 2#5) : decodeQ1 w = some (.cAddi16sp (cimmAddi16sp w)) := by
  simp [decodeQ1, hf, himm, hrd]

/-- The scrambled immediate of C.ADDI4SPN, unlike 0, selects its row and is put in order. -/
theorem decode_cAddi4spn {u54 : BitVec 2} {u96 : BitVec 4} {u2 u3 : BitVec 1} (h : u54 ++ u96 ++ u2 ++ u3 ≠ 0#8)
    (rd : CReg) :
    decode (.half (0b000#3 ++ u54 ++ u96 ++ u2 ++ u3 ++ rd ++ 0b00#2)) =
      .ok (.cAddi4spn rd (u96 ++ u54 ++ u3 ++ u2 ++ 0#2)) := by
  have hone : 0b000#3 ++ u54 ++ u96 ++ u2 ++ u3 = 0b000#3 ++ (u54 ++ u96 ++ u2 ++ u3) := by
    simp only [BitVec.append_assoc, BitVec.cast_eq]
  refine decode_half_of_match16 ((match16_append_quadrant0 _).trans ((decodeQ0_addi4spn ?funct3 ?imm).trans ?row))
  case funct3 => simp (disch := decide) only [extract_append_high, Nat.reduceSub, extract_self]
  case imm =>
    rw [hone]
    simpa (disch := decide) only [extract_append_low, extract_append_high, Nat.reduceSub, extract_self] using h
  case row =>
    simp (disch := decide) only [cregLow, cimmAddi4spn, extract_append_low, extract_append_high, Nat.reduceSub,
      extract_self]

theorem cimm6_append (f3 : BitVec 3) (i5 : BitVec 1) (rd i4 : BitVec 5) (q : BitVec 2) :
    cimm6 (f3 ++ i5 ++ rd ++ i4 ++ q) = i5 ++ i4 := by
  simp (disch := decide) only [cimm6, extract_append_low, extract_append_high, Nat.reduceSub, extract_self]

/-- The scrambled immediate of C.ADDI16SP, unlike 0, selects its row and is put in order. -/
theorem decode_cAddi16sp {n9 n4 n6 n5 : BitVec 1} {n87 : BitVec 2} (h : n9 ++ n4 ++ n6 ++ n87 ++ n5 ≠ 0#6) :
    decode (.half (0b011#3 ++ n9 ++ 0b00010#5 ++ n4 ++ n6 ++ n87 ++ n5 ++ 0b01#2)) =
      .ok (.cAddi16sp (n9 ++ n87 ++ n6 ++ n5 ++ n4 ++ 0#4)) := by
  have hone {n : Nat} (high : BitVec n) : high ++ n4 ++ n6 ++ n87 ++ n5 = high ++ (n4 ++ n6 ++ n87 ++ n5) := by
    simp only [BitVec.append_assoc, BitVec.cast_eq]
  refine decode_half_of_match16 ((match16_append_quadrant1 _).trans ((decodeQ1_addi16sp ?funct3 ?imm ?rd).trans ?row))
  case funct3 => simp (disch := decide) only [extract_append_high, Nat.reduceSub, extract_self]
  case imm => rwa [hone, cimm6_append, ← hone]
  case rd => simp (disch := decide) only [crd, extract_append_low, extract_append_high, Nat.reduceSub, extract_self]
  case row =>
    simp (disch := decide) only [cimmAddi16sp, extract_append_low, extract_append_high, Nat.reduceSub, extract_self]

end Sys2Proof
end

section
/-! SUPPORT. The reserved compressed words that run as the illegal-instruction exception, and the values and targets of
the compressed instructions (spec/45_c_extension.md R362 to R387). -/

namespace Sys2Proof.Machine

/-! ## Reserved encodings (30 R210, R212; 45 R362, R370 to R372, R381) -/

/-- A 16-bit word that matches no row runs as the illegal-instruction exception (30 R210). -/
theorem runEncoded_of_match16_none (s : State) {w : BitVec 16} (h : match16 w = none) :
    runEncoded s (.half w) = takeIllegal s (w.setWidth 32) := by
  rw [runEncoded, decode_half_of_match16_none h]
  rfl

/-- C.ADDI4SPN with an immediate of 0: no row, but for the all-zero halfword, whose meaning is the exception. -/
theorem runEncoded_addi4spn_zero (s : State) (rd : CReg) :
    runEncoded s (.half (0b000#3 ++ 0#8 ++ rd ++ 0b00#2)) =
      takeIllegal s ((0b000#3 ++ 0#8 ++ rd ++ 0b00#2).setWidth 32) := by
  by_cases hrd : rd = 0#3
  · subst hrd
    rfl
  · have hfield : (0b000#3 ++ 0#8 ++ rd ++ 0b00#2).extractLsb' 2 3 = rd := by
      rw [extract_append_high _ _ _ _ (by decide), extract_append_low _ _ _ _ (by decide), extract_self]
    refine runEncoded_of_match16_none s ((match16_append_quadrant0 _).trans (decodeQ0_addi4spn_zero ?word ?funct3 ?imm))
    case word => exact fun hw => hrd (hfield.symm.trans (by rw [hw]; rfl))
    case funct3 => simp (disch := decide) only [extract_append_high, Nat.reduceSub, extract_self]
    case imm => simp (disch := decide) only [extract_append_low, extract_append_high, Nat.reduceSub, extract_self]

/-- C.LUI with an immediate of 0. -/
theorem runEncoded_lui_zero (s : State) (rd : Reg) :
    runEncoded s (.half (0b011#3 ++ 0#1 ++ rd ++ 0#5 ++ 0b01#2)) =
      takeIllegal s ((0b011#3 ++ 0#1 ++ rd ++ 0#5 ++ 0b01#2).setWidth 32) := by
  refine runEncoded_of_match16_none s ((match16_append_quadrant1 _).trans (decodeQ1_upperImm_zero ?_ ?_ ?_)) <;>
    simp (disch := decide) only [extract_append_low, extract_append_high, Nat.reduceSub, extract_self]

/-- C.SRLI and C.SRAI with `shamt[5]` = 1. -/
theorem runEncoded_rightShift_bit12 (s : State) {g : BitVec 2} (hg : g.extractLsb' 1 1 = 0#1) (rd : CReg)
    (shamt : BitVec 5) :
    runEncoded s (.half (0b100#3 ++ 1#1 ++ g ++ rd ++ shamt ++ 0b01#2)) =
      takeIllegal s ((0b100#3 ++ 1#1 ++ g ++ rd ++ shamt ++ 0b01#2).setWidth 32) := by
  refine runEncoded_of_match16_none s ((match16_append_quadrant1 _).trans (decodeQ1_shift_bit12 ?_ ?_ ?_)) <;>
    simp (disch := decide) only [extract_append_low, extract_append_high, Nat.reduceSub, extract_self, hg]

/-- C.SLLI with `shamt[5]` = 1. -/
theorem runEncoded_slli_bit12 (s : State) (rd : Reg) (shamt : BitVec 5) :
    runEncoded s (.half (0b000#3 ++ 1#1 ++ rd ++ shamt ++ 0b10#2)) =
      takeIllegal s ((0b000#3 ++ 1#1 ++ rd ++ shamt ++ 0b10#2).setWidth 32) := by
  refine runEncoded_of_match16_none s ((match16_append_quadrant2 _).trans (decodeQ2_slli_bit12 ?_ ?_)) <;>
    simp (disch := decide) only [extract_append_low, extract_append_high, Nat.reduceSub, extract_self]

/-! ## Registers and values (30 R201, R204) -/

/-- The three-bit fields name x8 to x15. -/
theorem toNat_cReg (r : CReg) : (cReg r).toNat = 8 + r.toNat := by
  revert r
  decide

theorem toNat_zext {n : Nat} (imm : BitVec n) (h : n ≤ 32) : (zext imm).toNat = imm.toNat :=
  BitVec.toNat_setWidth_of_le h

/-- From its highest bit on, a sign-extended immediate repeats that bit. -/
theorem getLsbD_sext_min {n : Nat} (imm : BitVec (n + 1)) {k : Nat} (hk : k < 32) :
    (sext imm).getLsbD k = imm.getLsbD (min k n) := by
  rw [sext, BitVec.getLsbD_signExtend]
  by_cases h : k < n + 1
  · have : min k n = k := by omega
    simp [*]
  · have : min k n = n := by omega
    simp [*, BitVec.msb_eq_getLsbD_last]

/-! ## Jumps and branches (41 R270, R271) -/

/-- A jump that links in `x0` writes no register. -/
theorem jumpAndLink_x0_wentTo (s : State) (target len : Word) :
    ∃ t, jumpAndLink s 0#5 target len = .next t ∧ WentTo s t target :=
  ⟨_, rfl, retire_wentTo s target⟩

/-- The target of a jump to a register is its value rounded down to an even number. -/
theorem ofNat_even_eq_clearBit0 (a : Word) : BitVec.ofNat 32 (a.toNat / 2 * 2) = clearBit0 a := by
  rw [← toNat_clearBit0, BitVec.ofNat_toNat, BitVec.setWidth_eq]

/-- A branch of any length on a comparison goes to the exact sum, wrapped, if the condition it decides holds. -/
theorem branch_wentTo_ofInt {s : State} {c : Bool} {p : Prop} [Decidable p] (h : c = true ↔ p) {n : Nat}
    (offset : BitVec n) (hn : n ≤ 32) (len : Word) :
    ∃ t, branch s c (sext offset) len = .next t ∧
      WentTo s t (if p then BitVec.ofInt 32 (s.pc.toInt + offset.toInt) else s.pc + len) := by
  rw [← add_sext_eq_ofInt s.pc offset hn]
  simpa only [h] using branch_wentTo s c (sext offset) len

end Sys2Proof.Machine
end

section
/-! SUPPORT. The compressed instructions that compute a register, jump or branch: each one has its row in the decoder
and ends as its expansion does, with a length of two bytes (spec/45_c_extension.md R362 to R387). -/

namespace Sys2Proof.Machine

/-- Settles O49: the rows by their fields, and the values as sums and differences. -/
theorem compressedArithmetic : Obligations.CompressedArithmetic := by
  refine fun s rd rs2 rd' rs2' i5 i4 imm u v18 u54 u96 u2 u3 n9 n4 n6 n5 n87 =>
    ⟨⟨fun h => decode_cAddi4spn h rd', runEncoded_addi4spn_zero s rd', toNat_cReg rd', ?addi4spn⟩,
      ⟨fun hrd => decode_quadrant1, ?addi⟩, ⟨decode_quadrant1, ?li⟩, ⟨decode_cAddi16sp, ?addi16sp⟩,
      ⟨fun himm hrd => decode_quadrant1, runEncoded_lui_zero s rd, ?lui⟩, ⟨decode_quadrant1, ?sub⟩,
      ⟨fun hrs2 => decode_quadrant2, ?mv⟩, ⟨fun hrs2 => decode_quadrant2, ?add⟩⟩
  case addi4spn => exact writeAndRetire_computed (by rw [BitVec.toNat_add, toNat_zext u (by decide)]; rfl)
  case addi => exact writeAndRetire_computed (add_sext_eq_ofInt _ imm (by decide))
  case li => exact writeAndRetire_computed (toInt_sext imm (by decide))
  case addi16sp => exact writeAndRetire_computed (add_sext_eq_ofInt _ u (by decide))
  case lui => exact writeAndRetire_computed (toInt_sext v18 (by decide))
  case sub => exact writeAndRetire_computed (toNat_sub_eq_emod _ _)
  case mv => exact writeAndRetire_computed rfl
  case add => exact writeAndRetire_computed (BitVec.toNat_add _ _)

/-- Settles O50: the rows by their fields, the values bit by bit or as products and quotients, and no row for
`shamt[5]` = 1. -/
theorem compressedLogicShift : Obligations.CompressedLogicShift := by
  refine fun s rd rd' rs2' shamt i5 i4 imm => ⟨toNat_cReg rd',
    ⟨decode_quadrant1, runEncoded_rightShift_bit12 s (by decide) rd' shamt, ?srli⟩,
    ⟨decode_quadrant1, runEncoded_rightShift_bit12 s (by decide) rd' shamt, ?srai⟩,
    ⟨decode_quadrant1, ?andi⟩, ⟨decode_quadrant1, ?xor⟩, ⟨decode_quadrant1, ?or⟩, ⟨decode_quadrant1, ?and⟩,
    ⟨decode_quadrant2, runEncoded_slli_bit12 s rd shamt, ?slli⟩⟩
  case srli => exact writeAndRetire_computed (toNat_shiftRight _ _)
  case srai => exact writeAndRetire_computed (toInt_shiftRightArith _ _)
  case andi => exact writeAndRetire_computed fun k hk => by rw [BitVec.getLsbD_and, getLsbD_sext_min imm hk]
  case xor => exact writeAndRetire_computed fun k _ => BitVec.getLsbD_xor
  case or => exact writeAndRetire_computed fun k _ => BitVec.getLsbD_or
  case and => exact writeAndRetire_computed fun k _ => BitVec.getLsbD_and
  case slli => exact writeAndRetire_computed (toNat_shiftLeft _ _)

/-- Settles O51: the rows by their fields, the targets as exact sums wrapped to 32 bits or even register values, and
the conditions by equality with 0. -/
theorem compressedJumps : Obligations.CompressedJumps := by
  refine fun s rs1 rs1' offset offset9 o11 o4 o10 o6 o7 o5 p8 p5 o98 p43 p76 p21 o31 =>
    ⟨⟨decode_quadrant1, ?jal⟩, ⟨decode_quadrant1, ?j⟩,
      ⟨fun hrs1 => decode_quadrant2, runEncoded_of_match16_none s (w := 0x8002#16) rfl, ?jr⟩,
      ⟨fun hrs1 => decode_quadrant2, ?jalr⟩, ⟨decode_quadrant1, ?beqz⟩, ⟨decode_quadrant1, ?bnez⟩⟩
  case jal =>
    rw [← add_sext_eq_ofInt s.pc offset (by decide)]
    exact jumpAndLink_jumped s ra _ 2#32
  case j =>
    rw [← add_sext_eq_ofInt s.pc offset (by decide)]
    exact jumpAndLink_x0_wentTo s _ 2#32
  case jr =>
    rw [ofNat_even_eq_clearBit0]
    exact jumpAndLink_x0_wentTo s _ 2#32
  case jalr =>
    rw [ofNat_even_eq_clearBit0]
    exact jumpAndLink_jumped s ra _ 2#32
  case beqz => exact branch_wentTo_ofInt beq_iff_eq offset9 (by decide) 2#32
  case bnez =>
    rw [← ite_not]
    exact branch_wentTo_ofInt bne_iff_ne offset9 (by decide) 2#32

end Sys2Proof.Machine
end

section
/-! SUPPORT. A step as its boundary and what follows it, the interrupt decision in the non-CLIC modes, and where the
interrupt it takes goes (spec/60_exceptions.md R431, R442 to R444, R451, R453). -/

namespace Sys2Proof.Machine

/-! ## The addresses of the handlers (60 R442 to R444) -/

/-- Clearing the low six bits shifts them out and back in as 0. -/
theorem trapBase_eq_shift (s : State) : trapBase s = s.mtvec >>> 6 <<< 6 := by
  have hmask : 0xFFFFFFC0#32 = BitVec.allOnes 32 <<< 6 := by decide
  rw [trapBase, hmask, BitVec.shiftLeft_ushiftRight]

theorem toNat_trapBase (s : State) : (trapBase s).toNat = s.mtvec.toNat / 64 * 64 := by
  have := s.mtvec.isLt
  rw [trapBase_eq_shift, BitVec.toNat_shiftLeft, BitVec.toNat_ushiftRight, Nat.shiftLeft_eq,
    Nat.shiftRight_eq_div_pow]
  omega

theorem toNat_basicTarget (s : State) (id : Nat) :
    (basicTarget s id).toNat =
      (s.mtvec.toNat / 64 * 64 + if s.mtvec.getLsbD 0 then 4 * id else 0) % 2 ^ 32 := by
  unfold basicTarget
  split
  · rw [BitVec.toNat_add, toNat_trapBase, BitVec.toNat_ofNat, Nat.add_mod_mod]
  · rw [Nat.add_zero, ← toNat_trapBase, Nat.mod_eq_of_lt (trapBase s).isLt]

/-! ## Interrupt entry in the non-CLIC modes (60 R440, R443, R444) -/

/-- In a non-CLIC mode an interrupt is taken at BASE, or at BASE + 4 * id in vectored mode. -/
theorem takeInterrupt_basic {s : State} (hbase : HandlerAligned s) (hmode : clicMode s = false) {id : Nat}
    (hid : id < 1024) :
    ∃ t, takeInterrupt s id = .next t ∧ InterruptEntered s t id ∧ t.pc = basicTarget s id :=
  ⟨{ saveInterrupt s id with pc := basicTarget s id }, (if_pos hbase).trans (if_neg (by simp [hmode])),
    saveInterrupt_entered hid (.inl rfl), rfl⟩

/-! ## A step as its boundary and what follows it (60 R431, R463) -/

@[simp] theorem clicMode_passBoundary (s : State) : clicMode (passBoundary s) = clicMode s := by simp [clicMode]

/-- The boundary leaves the handler's address. -/
theorem handlerAligned_passBoundary {s : State} (h : HandlerAligned s) : HandlerAligned (passBoundary s) := by
  simpa [HandlerAligned] using h

/-- In a running hart, outside debug mode and single step, a step is its boundary and what follows it. -/
theorem step_eq_afterBoundary {s : State} (hdebug : s.debugMode = false) (hwait : s.waiting = false)
    (hstep : s.dcsrStep = false) (hpc : s.pc.getLsbD 0 = false) : step s = afterBoundary (passBoundary s) := by
  rw [step, hdebug, hpc, hwait]
  exact singleStep_off hstep _

theorem afterBoundary_take {s : State} {id : Nat} (h : interruptDecision s = .take id) :
    afterBoundary s = takeInterrupt s id := by rw [afterBoundary, h]

theorem afterBoundary_noInterrupt {s : State} (h : interruptDecision s = .noInterrupt) :
    afterBoundary s = fetchAndRun s := by rw [afterBoundary, h]

/-! ## The decision (60 R431, R451, R453) -/

/-- With MIE = 0 no interrupt is taken in any mode. -/
theorem interruptDecision_mie_clear {s : State} (h : s.mstatusMie = false) : interruptDecision s = .noInterrupt := by
  simp [interruptDecision, h]

theorem interruptDecision_basic {s : State} (hmie : s.mstatusMie = true) (hmode : clicMode s = false) :
    interruptDecision s = basicDecision s := by simp [interruptDecision, hmie, hmode]

/-- An external interrupt goes before the others. -/
theorem basicDecision_external {s : State} (he : s.mieMeie = true ∧ pendingSeen s 11 = true) :
    basicDecision s = .take 11 := by
  rw [basicDecision, if_pos (Bool.and_eq_true_iff.2 he)]

/-- A software interrupt goes before the timer. -/
theorem basicDecision_software {s : State} (he : ¬ (s.mieMeie = true ∧ pendingSeen s 11 = true))
    (hs : s.mieMsie = true ∧ pendingSeen s 3 = true) : basicDecision s = .take 3 := by
  rw [← Bool.and_eq_true_iff] at he hs
  rw [basicDecision, if_neg he, if_pos hs]

theorem basicDecision_timer {s : State} (he : ¬ (s.mieMeie = true ∧ pendingSeen s 11 = true))
    (hs : ¬ (s.mieMsie = true ∧ pendingSeen s 3 = true)) (ht : s.mieMtie = true ∧ pendingSeen s 7 = true) :
    basicDecision s = .take 7 := by
  rw [← Bool.and_eq_true_iff] at he hs ht
  rw [basicDecision, if_neg he, if_neg hs, if_pos ht]

theorem basicDecision_none {s : State} (he : ¬ (s.mieMeie = true ∧ pendingSeen s 11 = true))
    (hs : ¬ (s.mieMsie = true ∧ pendingSeen s 3 = true)) (ht : ¬ (s.mieMtie = true ∧ pendingSeen s 7 = true)) :
    basicDecision s = .noInterrupt := by
  rw [← Bool.and_eq_true_iff] at he hs ht
  rw [basicDecision, if_neg he, if_neg hs, if_neg ht]

/-- What the decision of a non-CLIC mode takes is entered in the step, before any fetch. -/
theorem afterBoundary_basic_take {s : State} {id : Nat} (hbase : HandlerAligned s) (hmie : s.mstatusMie = true)
    (hmode : clicMode s = false) (h : basicDecision s = .take id) (hid : id < 1024) :
    ∃ t, afterBoundary s = .next t ∧ InterruptEntered s t id ∧ t.pc = basicTarget s id := by
  rw [afterBoundary_take ((interruptDecision_basic hmie hmode).trans h)]
  exact takeInterrupt_basic hbase hmode hid

/-- Settles O41: the step is its boundary and the decision there, made in the order external, software, timer. -/
theorem basicInterrupts : Obligations.BasicInterrupts := by
  rintro s b rfl hdebug hwait hstep hpc hbase
  rw [step_eq_afterBoundary hdebug hwait hstep hpc, ← passBoundary_mstatusMie s, ← clicMode_passBoundary s,
    ← passBoundary_mieMeie s, ← passBoundary_mieMsie s, ← passBoundary_mieMtie s, ← passBoundary_mtvec s]
  refine ⟨fun hmie => afterBoundary_noInterrupt (interruptDecision_mie_clear hmie), fun hmie hmode => ?basic⟩
  have taken {id : Nat} := afterBoundary_basic_take (id := id) (handlerAligned_passBoundary hbase) hmie hmode
  exact ⟨basicTarget (passBoundary s), toNat_basicTarget _,
    fun he => taken (basicDecision_external he) (by decide),
    fun he hs => taken (basicDecision_software he hs) (by decide),
    fun he hs ht => taken (basicDecision_timer he hs ht) (by decide),
    fun he hs ht => afterBoundary_noInterrupt
      ((interruptDecision_basic hmie hmode).trans (basicDecision_none he hs ht))⟩

end Sys2Proof.Machine
end

section
/-! SUPPORT. Loads and stores of the CLIC region: an access byte by byte, the frame of a store, and what an access to
implemented addresses leaves (spec/20_memory.md R155 to R161; spec/61_clic.md R509). -/

namespace Sys2Proof.Machine

/-! ## Byte by byte (61 R509) -/

theorem clicRead_succ {s : State} {a n : Nat} {slot : ClicSlot} {bs : List Byte} (h : clicSlot s.params a = some slot)
    (hrest : clicRead s (a + 1) n = some bs) : clicRead s a (n + 1) = some (clicReadSlot s slot :: bs) := by
  rw [clicRead, h, hrest]

theorem clicWrite_cons {s : State} {a : Nat} {slot : ClicSlot} (h : clicSlot s.params a = some slot) (b : Byte)
    (bs : List Byte) : clicWrite s a (b :: bs) = clicWrite (clicWriteSlot s b slot) (a + 1) bs := by
  rw [clicWrite, h]

/-- What is stored to a slot goes to a register of the CLIC or to `mtime`. -/
theorem clicWriteSlot_frame (s : State) (b : Byte) (slot : ClicSlot) :
    ∃ c m, clicWriteSlot s b slot = { s with clic := c, mtime := m } := by
  cases slot with
  | mtimecmp | mtime | cliccfg => exact ⟨_, _, rfl⟩
  | msip | ie | cfg => rw [clicWriteSlot]; split <;> exact ⟨_, _, rfl⟩
  | ip => rw [clicWriteSlot]; split_ifs <;> exact ⟨_, _, rfl⟩

/-- A store, whatever its width, changes nothing but the registers of the CLIC and `mtime`. -/
theorem clicWrite_frame {bs : List Byte} {s u : State} {a : Nat} (h : clicWrite s a bs = some u) :
    ∃ c m, u = { s with clic := c, mtime := m } := by
  induction bs generalizing s a with
  | nil => cases h; exact ⟨_, _, rfl⟩
  | cons b bs ih =>
    cases hslot : clicSlot s.params a with
    | none => simp [clicWrite, hslot] at h
    | some slot =>
      rw [clicWrite_cons hslot] at h
      obtain ⟨c, m, hb⟩ := clicWriteSlot_frame s b slot
      rw [hb] at h
      obtain ⟨c', m', hu⟩ := ih h
      exact ⟨c', m', hu⟩

/-! ## The access (20 R150, R151) -/

theorem memRead_clic {s : State} {a : Word} {w : Size} {bs : List Byte} (hq : NoTrigger s .load)
    (ha : a.toNat % w.bytes = 0) (hc : InClic a) (hr : clicRead s a.toNat w.bytes = some bs) :
    memRead s a w = .ok (ofBytes bs) := by
  rw [memRead, triggerCheck_quiet hq, bind_ok, if_pos (by simp [aligned, ha]), regionRead, regionOf_inClic hc]
  simp [hr]

theorem memWrite_clic {s u : State} {a v : Word} {w : Size} (hq : NoTrigger s .store)
    (ha : a.toNat % w.bytes = 0) (hc : InClic a) (hw : clicWrite s a.toNat (bytesOf v w.bytes) = some u) :
    memWrite s a w v = .ok (openClicWindow s u) := by
  rw [memWrite, triggerCheck_quiet hq, bind_ok, if_pos (by simp [aligned, ha]), regionWrite, regionOf_inClic hc]
  simp [hw]

theorem closeClicWindow_inClic (s : State) {a : Word} (hc : InClic a) :
    closeClicWindow s a = { s with clicOld := [] } := if_pos (regionOf_inClic hc)

theorem openClicWindow_clicOld {s t : State} (h : t.clicOld = s.clicOld) :
    (openClicWindow s t).clicOld = if t.clic = s.clic then s.clicOld else s.clic :: s.clicOld := by
  unfold openClicWindow
  split
  · rename_i heq
    rw [if_pos heq.symm, h]
  · rename_i hne
    rw [if_neg (Ne.symm hne)]

theorem openClicWindow_eq (s t : State) :
    openClicWindow s t = { t with clicOld := (openClicWindow s t).clicOld } := by
  unfold openClicWindow
  split <;> rfl

/-! ## The instruction (20 R156, R161; 42 R290 to R302) -/

theorem exec_lw (rd rs1 : Reg) (imm : BitVec 12) (s : State) :
    exec (.lw rd rs1 imm) s = loadTo s rd (effectiveAddress s rs1 imm) .word id 4#32 := rfl

theorem exec_lbu (rd rs1 : Reg) (imm : BitVec 12) (s : State) :
    exec (.lbu rd rs1 imm) s = loadTo s rd (effectiveAddress s rs1 imm) .byte id 4#32 := rfl

theorem exec_sb (rs2 rs1 : Reg) (imm : BitVec 12) (s : State) :
    exec (.sb rs2 rs1 imm) s = storeFrom s (effectiveAddress s rs1 imm) .byte (readReg s rs2) 4#32 := rfl

theorem exec_sw (rs2 rs1 : Reg) (imm : BitVec 12) (s : State) :
    exec (.sw rs2 rs1 imm) s = storeFrom s (effectiveAddress s rs1 imm) .word (readReg s rs2) 4#32 := rfl

/-- A load from implemented addresses of the CLIC region. -/
theorem loadTo_clic {s : State} {a len : Word} {w : Size} {ext : Word → Word} {rd : Reg} {bs : List Byte}
    {P : Word → Prop} (hq : NoTrigger s .load) (ha : a.toNat % w.bytes = 0) (hc : InClic a)
    (hr : clicRead s a.toNat w.bytes = some bs) (hP : P (ext (ofBytes bs))) :
    ∃ t, loadTo s rd a w ext len = .next t ∧ ClicLoaded s t len ∧ WritesReg s t rd P := by
  refine ⟨retire (writeReg (closeClicWindow s a) rd (ext (ofBytes bs))) (s.pc + len), ?_,
    ⟨?_, SameMemory.rfl' _ _ (by simp)⟩, writesReg_of_x (writeReg_x_congr (closeClicWindow_x s a) rd _) hP⟩
  · rw [loadTo, memRead_clic hq ha hc hr, bind_ok]
    rfl
  · rw [closeClicWindow_inClic s hc]
    exact retire_writeReg_eq _ rd _ _

/-- A store to implemented addresses of the CLIC region. -/
theorem storeFrom_clic {s u : State} {a v len : Word} {w : Size} (hq : NoTrigger s .store)
    (ha : a.toNat % w.bytes = 0) (hc : InClic a) (hw : clicWrite s a.toNat (bytesOf v w.bytes) = some u) :
    ∃ t, storeFrom s a w v len = .next t ∧ ClicStored s t len ∧ t.mtime = u.mtime ∧ t.clic = u.clic := by
  obtain ⟨c, m, rfl⟩ := clicWrite_frame hw
  refine ⟨retire (openClicWindow s _) (s.pc + len), ?_, ⟨?_, ?_, SameMemory.rfl' _ _ (by simp)⟩,
    openClicWindow_mtime _ _, openClicWindow_clic _ _⟩
  · rw [storeFrom, memWrite_clic hq ha hc hw, bind_ok]
    rfl
  · rw [openClicWindow_eq]
    rfl
  · rw [retire_clicOld, retire_clic, openClicWindow_clic]
    exact openClicWindow_clicOld rfl

end Sys2Proof.Machine
end

section
/-! SUPPORT. The software-interrupt bit: the two places where it stands in the CLIC region, and `mip`
(spec/61_clic.md R503, R511; spec/10_state.md R67). -/

namespace Sys2Proof.Machine

/-! ## The slots of the bit (61 R501, R503, R508) -/

theorem clicSlot_msip (p : Params) {k : Nat} (hk : k < 4) : clicSlot p (0x02000000 + k) = some (.msip k) := by
  rw [clicSlot, if_pos (by omega), Nat.add_sub_cancel_left]

/-- The pending byte of every ID up to 47, reserved or not, is implemented (61 R509). -/
theorem clicSlot_ip (p : Params) {id : Nat} (hid : id ≤ 47) : clicSlot p (0x02800000 + id) = some (.ip id) := by
  have htop : 47 ≤ lintTopId p := by unfold lintTopId; split <;> decide
  rw [clicSlot, if_neg (by omega), if_neg (by omega), if_neg (by omega), if_pos (by omega), Nat.add_sub_cancel_left]

/-! ## Stores (61 R503) -/

/-- The state with the software-interrupt bit set to `b`. -/
def withMsip (s : State) (b : Bool) : State := { s with clic := { s.clic with msip := b } }

theorem getLsbD_wordByte_zero (v : Word) : (wordByte v 0).getLsbD 0 = v.getLsbD 0 := by simp [wordByte]

theorem clicWriteSlot_msip_zero (s : State) (b : Byte) : clicWriteSlot s b (.msip 0) = withMsip s (b.getLsbD 0) := rfl

/-- The upper bytes of `msip` ignore a store. -/
theorem clicWriteSlot_msip_succ (s : State) (b : Byte) (k : Nat) : clicWriteSlot s b (.msip (k + 1)) = s := rfl

theorem clicWriteSlot_ip_three (s : State) (b : Byte) : clicWriteSlot s b (.ip 3) = withMsip s (b.getLsbD 0) := rfl

theorem clicWrite_msip (s : State) (v : Word) :
    clicWrite s 0x02000000 (bytesOf v 4) = some (withMsip s (v.getLsbD 0)) := by
  have hbytes : bytesOf v 4 = [wordByte v 0, wordByte v 1, wordByte v 2, wordByte v 3] := rfl
  have hslot (b : Bool) (k : Nat) (hk : k < 4) :
      clicSlot (withMsip s b).params (0x02000000 + k) = some (.msip k) := clicSlot_msip _ hk
  rw [hbytes, clicWrite_cons (clicSlot_msip s.params (k := 0) (by decide)), clicWriteSlot_msip_zero,
    clicWrite_cons (hslot _ 1 (by decide)), clicWriteSlot_msip_succ,
    clicWrite_cons (hslot _ 2 (by decide)), clicWriteSlot_msip_succ,
    clicWrite_cons (hslot _ 3 (by decide)), clicWriteSlot_msip_succ, getLsbD_wordByte_zero]
  rfl

theorem clicWrite_ip_three (s : State) (v : Word) :
    clicWrite s 0x02800003 (bytesOf v 1) = some (withMsip s (v.getLsbD 0)) := by
  have hbytes : bytesOf v 1 = [wordByte v 0] := rfl
  rw [hbytes, clicWrite_cons (clicSlot_ip s.params (id := 3) (by decide)), clicWriteSlot_ip_three,
    getLsbD_wordByte_zero]
  rfl

/-! ## Loads (61 R503, R511) -/

theorem clicRead_msip (s : State) : clicRead s 0x02000000 4 = some [bitByte s.clic.msip, 0#8, 0#8, 0#8] :=
  clicRead_succ (clicSlot_msip _ (k := 0) (by decide)) <| clicRead_succ (clicSlot_msip _ (k := 1) (by decide)) <|
    clicRead_succ (clicSlot_msip _ (k := 2) (by decide)) <| clicRead_succ (clicSlot_msip _ (k := 3) (by decide)) rfl

theorem clicRead_ip_three (s : State) : clicRead s 0x02800003 1 = some [bitByte s.clic.msip] :=
  clicRead_succ (clicSlot_ip s.params (id := 3) (by decide)) rfl

/-- A byte of one bit, with zero bytes above it or none, is a word of one bit. -/
theorem ofBytes_bitByte_zeros (b : Bool) (n : Nat) :
    ofBytes (bitByte b :: List.replicate n 0#8) = if b then 1#32 else 0#32 := by
  have hzeros : ofBytes (List.replicate n 0#8) = 0#32 := by
    induction n with
    | zero => rfl
    | succ n ih => simp [List.replicate_succ, ofBytes, ih]
  rw [ofBytes, hzeros]
  cases b <;> decide

/-! ## `mip.MSIP` (10 R67) -/

theorem getLsbD_mipRead_msip {s : State} (h : clicMode s = false) : (mipRead s).getLsbD 3 = s.clic.msip := by
  rw [mipRead_basic h, getLsbD_threeBits _ _ _ (by decide)]
  rfl

/-- Settles O15: both addresses hold the slot of the one bit, and `mip` shows it. -/
theorem msipIsOneBit : Obligations.MsipIsOneBit := by
  refine ⟨rfl, ?_⟩
  rintro s rd rs2 rs1 imm a v ha rfl
  have hmsip : InClic 0x02000000#32 := by unfold InClic; decide
  have hip : InClic 0x02800003#32 := by unfold InClic; decide
  rw [exec_sw, exec_sb, exec_lw, exec_lbu, ← ha]
  refine ⟨?sw, ?sb, ?lw, ?lbu, fun hbasic => ?csr⟩
  case sw => rintro hq rfl; exact storeFrom_clic (w := .word) hq rfl hmsip (clicWrite_msip s (readReg s rs2))
  case sb => rintro hq rfl; exact storeFrom_clic (w := .byte) hq rfl hip (clicWrite_ip_three s (readReg s rs2))
  case lw => rintro hq rfl; exact loadTo_clic hq rfl hmsip (clicRead_msip s) (ofBytes_bitByte_zeros _ 3)
  case lbu => rintro hq rfl; exact loadTo_clic hq rfl hip (clicRead_ip_three s) (ofBytes_bitByte_zeros _ 0)
  case csr =>
    rw [exec_csrrs]
    exact csrInstruction_computed plainAt_mip (csrUpdate_mip s _) (getLsbD_mipRead_msip hbasic)

end Sys2Proof.Machine
end

section
/-! SUPPORT. The levels and priorities of the CLIC, and the decision that too many level bits leave without a meaning
(spec/61_clic.md R520, R521; spec/60_exceptions.md R460). -/

namespace Sys2Proof.Machine

/-! ## The configuration bits that level and priority are made of (61 R520, R521) -/

theorem shvBitLeftOut_iff (nv : Bool) :
    shvBitLeftOut nv = true ↔ nv = true ∧ Config.shvBitInPriority = false := by
  simp [shvBitLeftOut]

theorem shvBitLeftOut_eq_false_iff (nv : Bool) :
    shvBitLeftOut nv = false ↔ nv = false ∨ Config.shvBitInPriority = true := by
  cases nv <;> simp [shvBitLeftOut]

/-- Bits followed by ones. -/
theorem toNat_append_allOnes {n : Nat} (c : BitVec n) (m : Nat) :
    (c ++ BitVec.allOnes m).toNat = c.toNat * 2 ^ m + (2 ^ m - 1) := by
  rw [BitVec.toNat_append, BitVec.toNat_allOnes, ← Nat.shiftLeft_add_eq_or_of_lt (Nat.sub_one_lt (by positivity)),
    Nat.shiftLeft_eq]

theorem toNat_upperCfgBit (c : BitVec 2) : (c.extractLsb' 1 1).toNat = c.toNat / 2 := by
  have := c.isLt
  rw [BitVec.extractLsb'_toNat, Nat.shiftRight_eq_div_pow]
  omega

theorem toNat_lowerCfgBit (c : BitVec 2) : (c.extractLsb' 0 1).toNat = c.toNat % 2 := by
  rw [BitVec.extractLsb'_toNat, Nat.shiftRight_zero]

/-! ## Levels (61 R520, R521) -/

/-- With no level bit every interrupt has the highest level. -/
theorem toNat_levelOf_zero (nv : Bool) (c : BitVec 2) : (levelOf nv 0#4 c).toNat = 255 := rfl

/-- The level has one configuration bit where `nlbits` gives it one, and where bit 6 is left out. -/
theorem toNat_levelOf_oneBit {nv : Bool} {n : BitVec 4} (hn : n ≠ 0#4) (h : n = 1#4 ∨ shvBitLeftOut nv = true)
    (c : BitVec 2) : (levelOf nv n c).toNat = c.toNat / 2 * 128 + 127 := by
  rw [levelOf, if_neg hn, if_pos h, ← toNat_upperCfgBit]
  exact toNat_append_allOnes _ 7

theorem toNat_levelOf_two {nv : Bool} (h : shvBitLeftOut nv = false) (c : BitVec 2) :
    (levelOf nv 2#4 c).toNat = c.toNat * 64 + 63 := by
  rw [levelOf, if_neg (by decide), if_neg (by simp [h])]
  exact toNat_append_allOnes _ 6

/-! ## Priorities (61 R520, R521) -/

/-- Where bit 6 is left out, the one bit that remains is the priority, unless the level has it. -/
theorem priorityOf_leftOut {nv : Bool} (h : shvBitLeftOut nv = true) (n : BitVec 4) (c : BitVec 2) :
    priorityOf nv n c = if n = 0#4 then c.toNat / 2 else 0 := by
  rw [priorityOf, if_pos h, toNat_upperCfgBit]

/-- The configuration bits that are not in the level. -/
theorem priorityOf_kept {nv : Bool} (h : shvBitLeftOut nv = false) (n : BitVec 4) (c : BitVec 2) :
    priorityOf nv n c = if n = 0#4 then c.toNat else if n = 1#4 then c.toNat % 2 else 0 := by
  rw [priorityOf, if_neg (by simp [h]), toNat_lowerCfgBit]

/-! ## The decision (60 R460; 61 R520) -/

theorem interruptDecision_clic {s : State} (hmie : s.mstatusMie = true) (hmode : clicMode s = true) :
    interruptDecision s = clicDecision s := by simp [interruptDecision, hmie, hmode]

theorem clicDecision_nlbitsTooLarge {s : State} {w : Nat} (hw : winner s = some w) (hn : 2#4 < nlbitsSeen s) :
    clicDecision s = .refuse .nlbitsTooLarge := by simp [clicDecision, hw, hn]

/-- Settles O44: by whether bit 6 is left out, then by `nlbits`. -/
theorem levelTable : Obligations.LevelTable := by
  refine ⟨fun nv c => ⟨fun h => ?leftOut, fun h => ?kept⟩, fun s w hmie hmode hw hn => ?decision⟩
  case leftOut =>
    have hout := (shvBitLeftOut_iff nv).2 h
    refine ⟨toNat_levelOf_zero nv c, priorityOf_leftOut hout 0#4 c, fun n hn => ?_⟩
    have hn0 : n ≠ 0#4 := by rcases hn with rfl | rfl <;> decide
    exact ⟨toNat_levelOf_oneBit hn0 (.inr hout) c, (priorityOf_leftOut hout n c).trans (if_neg hn0)⟩
  case kept =>
    have hin := (shvBitLeftOut_eq_false_iff nv).2 h
    exact ⟨toNat_levelOf_zero nv c, priorityOf_kept hin 0#4 c,
      toNat_levelOf_oneBit (by decide) (.inl rfl) c, priorityOf_kept hin 1#4 c,
      toNat_levelOf_two hin c, priorityOf_kept hin 2#4 c⟩
  case decision => exact (interruptDecision_clic hmie hmode).trans (clicDecision_nlbitsTooLarge hw hn)

end Sys2Proof.Machine
end

section
/-! SUPPORT. The CLIC configurations after reset, and the statement on the reset state (spec/70_reset_and_hazards.md
R591). -/

namespace Sys2Proof.Machine

/-- Every interrupt has configuration 0, and so does an ID beyond the last one, which has no entry. -/
@[simp] theorem ClicRegs.cfgOf_reset (id : Nat) : ClicRegs.reset.cfgOf id = 0#2 := by
  by_cases hid : id < 49
  · rw [ClicRegs.cfgOf, dif_pos hid]
    exact Vector.getElem_replicate hid
  · exact dif_neg hid

/-- Settles O56: each register is a field of the reset state; a configuration is looked up among those of the CLIC. -/
theorem resetState : Obligations.ResetState := by
  rintro p platform mem inputs s rfl
  have hcfg : ∀ id, (State.resetWith p platform mem inputs).clic.cfgOf id = 0#2 := ClicRegs.cfgOf_reset
  exact ⟨rfl, rfl, rfl, rfl, rfl, hcfg, rfl, rfl, rfl, rfl, rfl, rfl, rfl, fun _ => rfl, rfl⟩

end Sys2Proof.Machine
end

section
/-! SUPPORT. Putting the fields of a word together again: each format, from the fields that the decoder reads, encodes
to the word it reads them from (spec/30_encoding.md R181 to R187, R200 to R204). -/

namespace Sys2Proof

/-- Two fields, of which the first begins where the second ends, are one. -/
theorem extract_append_extract {n : Nat} (x : BitVec n) {hi s l : Nat} (k : Nat) (h : hi = s + l) :
    x.extractLsb' hi k ++ x.extractLsb' s l = x.extractLsb' s (k + l) := by
  rw [h, extract_join]

/-! ## 32-bit formats (30 R181 to R187) -/

theorem encR_fields (w : BitVec 32) :
    encR (funct7 w) (rs2Field w) (rs1Field w) (funct3 w) (rdField w) (opcode w) = .full w := by
  simp (disch := decide) only [encR, funct7, rs2Field, rs1Field, funct3, rdField, opcode, extract_append_extract,
    extract_self]

theorem encI_fields (w : BitVec 32) :
    encI (immI w) (rs1Field w) (funct3 w) (rdField w) (opcode w) = .full w := by
  simp (disch := decide) only [encI, immI, rs1Field, funct3, rdField, opcode, extract_append_extract,
    extract_self]

theorem encS_fields (w : BitVec 32) :
    encS (immS w) (rs2Field w) (rs1Field w) (funct3 w) (opcode w) = .full w := by
  simp (disch := decide) only [encS, immS, rs2Field, rs1Field, funct3, opcode, extract_append_low, extract_append_high,
    Nat.reduceSub, extract_self, extract_append_extract]

theorem encB_fields {w : BitVec 32} (h : opcode w = 0b1100011#7) :
    encB (immB w) (rs2Field w) (rs1Field w) (funct3 w) = .full w := by
  rw [encB, ← h]
  simp (disch := decide) only [immB, rs2Field, rs1Field, funct3, opcode, extract_append_low, extract_append_high,
    Nat.reduceSub, extract_self, extract_append_extract]

theorem encU_fields (w : BitVec 32) : encU (immU w) (rdField w) (opcode w) = .full w := by
  simp (disch := decide) only [encU, immU, rdField, opcode, extract_append_extract, extract_self]

theorem encJ_fields {w : BitVec 32} (h : opcode w = 0b1101111#7) : encJ (immJ w) (rdField w) = .full w := by
  rw [encJ, ← h]
  simp (disch := decide) only [immJ, rdField, opcode, extract_append_low, extract_append_high, Nat.reduceSub,
    extract_self, extract_append_extract]

/-- FENCE has three sets of four where the I format has its immediate (43 R310). -/
theorem fence_fields (w : BitVec 32) :
    Encoded.full (w.extractLsb' 28 4 ++ w.extractLsb' 24 4 ++ w.extractLsb' 20 4 ++ rs1Field w ++ funct3 w ++ rdField w
      ++ opcode w) = .full w := by
  simp (disch := decide) only [rs1Field, funct3, rdField, opcode, extract_append_extract, extract_self]

/-! ## 16-bit formats (30 R200 to R204) -/

theorem encCI_fields (w : BitVec 16) :
    encCI (w.extractLsb' 13 3) (w.extractLsb' 12 1) (crd w) (crs2 w) (w.extractLsb' 0 2) = .half w := by
  simp (disch := decide) only [encCI, crd, crs2, extract_append_extract, extract_self]

theorem encCImm_fields (w : BitVec 16) :
    encCImm (w.extractLsb' 13 3) (cimm6 w) (crd w) (w.extractLsb' 0 2) = .half w := by
  rw [encCImm, cimm6, extract_append_high _ _ _ _ (by decide), extract_append_low _ _ _ _ (by decide),
    extract_self, extract_self]
  exact encCI_fields w

theorem encCR_fields {w : BitVec 16} (h : w.extractLsb' 0 2 = 0b10#2) :
    encCR (w.extractLsb' 12 4) (crd w) (crs2 w) = .half w := by
  rw [encCR, ← h]
  simp (disch := decide) only [crd, crs2, extract_append_extract, extract_self]

theorem encCA_fields {w : BitVec 16} (hf : w.extractLsb' 10 6 = 0b100011#6) (hq : w.extractLsb' 0 2 = 0b01#2) :
    encCA (cregHigh w) (w.extractLsb' 5 2) (cregLow w) = .half w := by
  rw [encCA, ← hf, ← hq]
  simp (disch := decide) only [cregHigh, cregLow, extract_append_extract, extract_self]

theorem encCShift_fields {w : BitVec 16} (hf : w.extractLsb' 13 3 = 0b100#3) (hq : w.extractLsb' 0 2 = 0b01#2) :
    encCShift (w.extractLsb' 12 1) (w.extractLsb' 10 2) (cregHigh w) (crs2 w) = .half w := by
  rw [encCShift, ← hf, ← hq]
  simp (disch := decide) only [cregHigh, crs2, extract_append_extract, extract_self]

theorem encCL_fields {w : BitVec 16} (hq : w.extractLsb' 0 2 = 0b00#2) :
    encCL (w.extractLsb' 13 3) (cimmLw w) (cregHigh w) (cregLow w) = .half w := by
  rw [encCL, ← hq]
  simp (disch := decide) only [cimmLw, cregHigh, cregLow, extract_append_low, extract_append_high, Nat.reduceSub,
    extract_self, extract_append_extract]

theorem encCJ_fields {w : BitVec 16} (hq : w.extractLsb' 0 2 = 0b01#2) :
    encCJ (w.extractLsb' 13 3) (cimmJ w) = .half w := by
  rw [encCJ, ← hq]
  simp (disch := decide) only [cimmJ, extract_append_low, extract_append_high, Nat.reduceSub, extract_self,
    extract_append_extract]

theorem encCB_fields {w : BitVec 16} (hq : w.extractLsb' 0 2 = 0b01#2) :
    encCB (w.extractLsb' 13 3) (cregHigh w) (cimmB w) = .half w := by
  rw [encCB, ← hq]
  simp (disch := decide) only [cimmB, cregHigh, extract_append_low, extract_append_high, Nat.reduceSub, extract_self,
    extract_append_extract]

/-! ## Instructions with a format of their own (30 R204; 45 R362, R369, R370, R382, R388) -/

/-- The immediate of C.ADDI4SPN in the order in which the word has its bits. -/
theorem cimmAddi4spn_scrambled (w : BitVec 16) :
    (cimmAddi4spn w).extractLsb' 4 2 ++ (cimmAddi4spn w).extractLsb' 6 4 ++ (cimmAddi4spn w).extractLsb' 2 1
      ++ (cimmAddi4spn w).extractLsb' 3 1 = w.extractLsb' 5 8 := by
  simp (disch := decide) only [cimmAddi4spn, extract_append_low, extract_append_high, Nat.reduceSub, extract_self,
    extract_append_extract]

theorem encode_cAddi4spn_fields {w : BitVec 16} (hf : w.extractLsb' 13 3 = 0b000#3) (hq : w.extractLsb' 0 2 = 0b00#2) :
    encode (.cAddi4spn (cregLow w) (cimmAddi4spn w)) = .half w := by
  rw [encode, ← hf, ← hq]
  simp (disch := decide) only [cimmAddi4spn, cregLow, extract_append_low, extract_append_high, Nat.reduceSub,
    extract_self, extract_append_extract]

/-- The low bits of the immediate of C.ADDI16SP in the order in which the word has them. -/
theorem cimmAddi16sp_scrambled (w : BitVec 16) :
    (cimmAddi16sp w).extractLsb' 4 1 ++ (cimmAddi16sp w).extractLsb' 6 1 ++ (cimmAddi16sp w).extractLsb' 7 2
      ++ (cimmAddi16sp w).extractLsb' 5 1 = crs2 w := by
  simp (disch := decide) only [cimmAddi16sp, crs2, extract_append_low, extract_append_high, Nat.reduceSub, extract_self,
    extract_append_extract]

theorem cimmAddi16sp_sign (w : BitVec 16) : (cimmAddi16sp w).extractLsb' 9 1 = w.extractLsb' 12 1 := by
  simp (disch := decide) only [cimmAddi16sp, extract_append_high, Nat.reduceSub, extract_self]

theorem encode_cAddi16sp_fields {w : BitVec 16} (hf : w.extractLsb' 13 3 = 0b011#3) (hq : w.extractLsb' 0 2 = 0b01#2)
    (hrd : crd w = 2#5) : encode (.cAddi16sp (cimmAddi16sp w)) = .half w := by
  rw [encode, cimmAddi16sp_scrambled, cimmAddi16sp_sign, ← hf, ← hq, ← hrd, encCI_fields]

theorem encode_cLui_fields {w : BitVec 16} (hf : w.extractLsb' 13 3 = 0b011#3) (hq : w.extractLsb' 0 2 = 0b01#2) :
    encode (.cLui (crd w) (cimmLui w)) = .half w := by
  rw [← encCI_fields w, hf, hq]
  simp (disch := decide) only [encode, cimmLui, crs2, extract_append_low, extract_append_high, Nat.reduceSub,
    extract_self]

theorem encode_cLwsp_fields {w : BitVec 16} (hf : w.extractLsb' 13 3 = 0b010#3) (hq : w.extractLsb' 0 2 = 0b10#2) :
    encode (.cLwsp (crd w) (cimmLwsp w)) = .half w := by
  rw [← encCI_fields w, hf, hq]
  simp (disch := decide) only [encode, cimmLwsp, crs2, extract_append_low, extract_append_high, Nat.reduceSub,
    extract_self, extract_append_extract]

theorem encode_cSwsp_fields {w : BitVec 16} (hf : w.extractLsb' 13 3 = 0b110#3) (hq : w.extractLsb' 0 2 = 0b10#2) :
    encode (.cSwsp (crs2 w) (cimmSwsp w)) = .half w := by
  rw [encode, ← hf, ← hq]
  simp (disch := decide) only [cimmSwsp, crs2, extract_append_low, extract_append_high, Nat.reduceSub,
    extract_self, extract_append_extract]

end Sys2Proof
end

section
/-! SUPPORT. Every row of the decoder reads all the bits of its word: what it decodes is well formed and encodes to the
word (spec/30_encoding.md R190 to R196, R202, R203). -/

namespace Sys2Proof

/-- The instruction is well formed and the bits are its encoding. -/
def EncodedAs (i : Instr) (e : Encoded) : Prop := i.wf = true ∧ encode i = e

/-! ## 32-bit words, by the format of the row (30 R181 to R196) -/

theorem encR_of_fields {w : BitVec 32} {f7 : BitVec 7} {f3 : BitVec 3} {op : BitVec 7} (h7 : funct7 w = f7)
    (h3 : funct3 w = f3) (hop : opcode w = op) :
    encR f7 (rs2Field w) (rs1Field w) f3 (rdField w) op = .full w := by
  rw [← h7, ← h3, ← hop, encR_fields]

theorem encI_of_fields {w : BitVec 32} {f3 : BitVec 3} {op : BitVec 7} (h3 : funct3 w = f3) (hop : opcode w = op) :
    encI (immI w) (rs1Field w) f3 (rdField w) op = .full w := by
  rw [← h3, ← hop, encI_fields]

theorem encS_of_fields {w : BitVec 32} {f3 : BitVec 3} {op : BitVec 7} (h3 : funct3 w = f3) (hop : opcode w = op) :
    encS (immS w) (rs2Field w) (rs1Field w) f3 op = .full w := by
  rw [← h3, ← hop, encS_fields]

theorem encU_of_fields {w : BitVec 32} {op : BitVec 7} (hop : opcode w = op) :
    encU (immU w) (rdField w) op = .full w := by
  rw [← hop, encU_fields]

/-- A branch offset is even (30 R185). -/
theorem lowZero_immB (w : BitVec 32) : lowZero (immB w) 1 = true := by
  rw [lowZero, immB, extract_append_low _ 0#1 0 1 (by decide), extract_self]
  rfl

/-- A jump offset is even (30 R187). -/
theorem lowZero_immJ (w : BitVec 32) : lowZero (immJ w) 1 = true := by
  rw [lowZero, immJ, extract_append_low _ 0#1 0 1 (by decide), extract_self]
  rfl

theorem encB_of_fields {w : BitVec 32} {f3 : BitVec 3} (h3 : funct3 w = f3) (hop : opcode w = 0b1100011#7) :
    lowZero (immB w) 1 = true ∧ encB (immB w) (rs2Field w) (rs1Field w) f3 = .full w :=
  ⟨lowZero_immB w, by rw [← h3, encB_fields hop]⟩

theorem decodeLoad_encodedAs {w : BitVec 32} {i : Instr} (hop : opcode w = 0b0000011#7) (h : decodeLoad w = some i) :
    EncodedAs i (.full w) := by
  simp only [decodeLoad, ite_eq_iff, Option.some.injEq, reduceCtorEq, and_false, or_false] at h
  rcases h with ⟨h0, rfl⟩ | ⟨-, ⟨h1, rfl⟩ | ⟨-, ⟨h2, rfl⟩ | ⟨-, ⟨h4, rfl⟩ | ⟨-, h5, rfl⟩⟩⟩⟩
  · exact ⟨rfl, encI_of_fields h0 hop⟩
  · exact ⟨rfl, encI_of_fields h1 hop⟩
  · exact ⟨rfl, encI_of_fields h2 hop⟩
  · exact ⟨rfl, encI_of_fields h4 hop⟩
  · exact ⟨rfl, encI_of_fields h5 hop⟩

theorem decodeStore_encodedAs {w : BitVec 32} {i : Instr} (hop : opcode w = 0b0100011#7) (h : decodeStore w = some i) :
    EncodedAs i (.full w) := by
  simp only [decodeStore, ite_eq_iff, Option.some.injEq, reduceCtorEq, and_false, or_false] at h
  rcases h with ⟨h0, rfl⟩ | ⟨-, ⟨h1, rfl⟩ | ⟨-, h2, rfl⟩⟩
  · exact ⟨rfl, encS_of_fields h0 hop⟩
  · exact ⟨rfl, encS_of_fields h1 hop⟩
  · exact ⟨rfl, encS_of_fields h2 hop⟩

/-- The value of `funct3` that the table of OP-IMM leaves for its last two rows. -/
theorem funct3_shiftRight {f : BitVec 3} (h0 : f ≠ 0b000#3) (h2 : f ≠ 0b010#3) (h3 : f ≠ 0b011#3) (h4 : f ≠ 0b100#3)
    (h6 : f ≠ 0b110#3) (h7 : f ≠ 0b111#3) (h1 : f ≠ 0b001#3) : f = 0b101#3 := by bv_omega

/-- The value of `funct3` that the tables of OP and of quadrant 01 leave for their last row. -/
theorem funct3_last {f : BitVec 3} (h0 : f ≠ 0b000#3) (h1 : f ≠ 0b001#3) (h2 : f ≠ 0b010#3) (h3 : f ≠ 0b011#3)
    (h4 : f ≠ 0b100#3) (h5 : f ≠ 0b101#3) (h6 : f ≠ 0b110#3) : f = 0b111#3 := by bv_omega

theorem decodeOpImm_encodedAs {w : BitVec 32} {i : Instr} (hop : opcode w = 0b0010011#7) (h : decodeOpImm w = some i) :
    EncodedAs i (.full w) := by
  simp only [decodeOpImm, ite_eq_iff, Option.some.injEq, reduceCtorEq, and_false, or_false] at h
  rcases h with ⟨h0, rfl⟩ | ⟨n0, ⟨h2, rfl⟩ | ⟨n2, ⟨h3, rfl⟩ | ⟨n3, ⟨h4, rfl⟩ | ⟨n4, ⟨h6, rfl⟩ | ⟨n6, ⟨h7, rfl⟩ |
    ⟨n7, ⟨h1, hl, rfl⟩ | ⟨n1, ⟨hr, rfl⟩ | ⟨-, ha, rfl⟩⟩⟩⟩⟩⟩⟩⟩
  · exact ⟨rfl, encI_of_fields h0 hop⟩
  · exact ⟨rfl, encI_of_fields h2 hop⟩
  · exact ⟨rfl, encI_of_fields h3 hop⟩
  · exact ⟨rfl, encI_of_fields h4 hop⟩
  · exact ⟨rfl, encI_of_fields h6 hop⟩
  · exact ⟨rfl, encI_of_fields h7 hop⟩
  · exact ⟨rfl, encR_of_fields hl h1 hop⟩
  · exact ⟨rfl, encR_of_fields hr (funct3_shiftRight n0 n2 n3 n4 n6 n7 n1) hop⟩
  · exact ⟨rfl, encR_of_fields ha (funct3_shiftRight n0 n2 n3 n4 n6 n7 n1) hop⟩

theorem decodeOp_encodedAs {w : BitVec 32} {i : Instr} (hop : opcode w = 0b0110011#7) (h : decodeOp w = some i) :
    EncodedAs i (.full w) := by
  simp only [decodeOp, ite_eq_iff, Option.some.injEq, reduceCtorEq, and_false, or_false] at h
  rcases h with ⟨hf, ⟨h0, rfl⟩ | ⟨n0, ⟨h1, rfl⟩ | ⟨n1, ⟨h2, rfl⟩ | ⟨n2, ⟨h3, rfl⟩ | ⟨n3, ⟨h4, rfl⟩ | ⟨n4, ⟨h5, rfl⟩ |
    ⟨n5, ⟨h6, rfl⟩ | ⟨n6, rfl⟩⟩⟩⟩⟩⟩⟩⟩ | ⟨-, ⟨hf, ⟨h0, rfl⟩ | ⟨-, h5, rfl⟩⟩ | ⟨-, hf, ⟨h0, rfl⟩ | ⟨n0, ⟨h1, rfl⟩ |
    ⟨n1, ⟨h2, rfl⟩ | ⟨n2, ⟨h3, rfl⟩ | ⟨n3, ⟨h4, rfl⟩ | ⟨n4, ⟨h5, rfl⟩ | ⟨n5, ⟨h6, rfl⟩ | ⟨n6, rfl⟩⟩⟩⟩⟩⟩⟩⟩⟩
  · exact ⟨rfl, encR_of_fields hf h0 hop⟩
  · exact ⟨rfl, encR_of_fields hf h1 hop⟩
  · exact ⟨rfl, encR_of_fields hf h2 hop⟩
  · exact ⟨rfl, encR_of_fields hf h3 hop⟩
  · exact ⟨rfl, encR_of_fields hf h4 hop⟩
  · exact ⟨rfl, encR_of_fields hf h5 hop⟩
  · exact ⟨rfl, encR_of_fields hf h6 hop⟩
  · exact ⟨rfl, encR_of_fields hf (funct3_last n0 n1 n2 n3 n4 n5 n6) hop⟩
  · exact ⟨rfl, encR_of_fields hf h0 hop⟩
  · exact ⟨rfl, encR_of_fields hf h5 hop⟩
  · exact ⟨rfl, encR_of_fields hf h0 hop⟩
  · exact ⟨rfl, encR_of_fields hf h1 hop⟩
  · exact ⟨rfl, encR_of_fields hf h2 hop⟩
  · exact ⟨rfl, encR_of_fields hf h3 hop⟩
  · exact ⟨rfl, encR_of_fields hf h4 hop⟩
  · exact ⟨rfl, encR_of_fields hf h5 hop⟩
  · exact ⟨rfl, encR_of_fields hf h6 hop⟩
  · exact ⟨rfl, encR_of_fields hf (funct3_last n0 n1 n2 n3 n4 n5 n6) hop⟩

theorem decodeBranch_encodedAs {w : BitVec 32} {i : Instr} (hop : opcode w = 0b1100011#7)
    (h : decodeBranch w = some i) : EncodedAs i (.full w) := by
  simp only [decodeBranch, ite_eq_iff, Option.some.injEq, reduceCtorEq, and_false, or_false] at h
  rcases h with ⟨h0, rfl⟩ | ⟨-, ⟨h1, rfl⟩ | ⟨-, ⟨h4, rfl⟩ | ⟨-, ⟨h5, rfl⟩ | ⟨-, ⟨h6, rfl⟩ | ⟨-, h7, rfl⟩⟩⟩⟩⟩
  · exact encB_of_fields h0 hop
  · exact encB_of_fields h1 hop
  · exact encB_of_fields h4 hop
  · exact encB_of_fields h5 hop
  · exact encB_of_fields h6 hop
  · exact encB_of_fields h7 hop

theorem decodeMiscMem_encodedAs {w : BitVec 32} {i : Instr} (hop : opcode w = 0b0001111#7)
    (h : decodeMiscMem w = some i) : EncodedAs i (.full w) := by
  simp only [decodeMiscMem, ite_eq_iff, Option.some.injEq, reduceCtorEq, and_false, or_false] at h
  rcases h with ⟨h0, rfl⟩ | ⟨-, h1, rfl⟩
  · exact ⟨rfl, by rw [encode, ← h0, ← hop, fence_fields]⟩
  · exact ⟨rfl, encI_of_fields h1 hop⟩

theorem decodeSystem_encodedAs {w : BitVec 32} {i : Instr} (hop : opcode w = 0b1110011#7)
    (h : decodeSystem w = some i) : EncodedAs i (.full w) := by
  simp only [decodeSystem, ite_eq_iff, Option.some.injEq, reduceCtorEq, and_false, or_false] at h
  rcases h with ⟨h1, rfl⟩ | ⟨-, ⟨h2, rfl⟩ | ⟨-, ⟨h3, rfl⟩ | ⟨-, ⟨h5, rfl⟩ | ⟨-, ⟨h6, rfl⟩ | ⟨-, ⟨h7, rfl⟩ |
    ⟨-, ⟨rfl, rfl⟩ | ⟨-, ⟨rfl, rfl⟩ | ⟨-, ⟨rfl, rfl⟩ | ⟨-, ⟨rfl, rfl⟩ | ⟨-, rfl, rfl⟩⟩⟩⟩⟩⟩⟩⟩⟩⟩
  · exact ⟨rfl, encI_of_fields h1 hop⟩
  · exact ⟨rfl, encI_of_fields h2 hop⟩
  · exact ⟨rfl, encI_of_fields h3 hop⟩
  · exact ⟨rfl, encI_of_fields h5 hop⟩
  · exact ⟨rfl, encI_of_fields h6 hop⟩
  · exact ⟨rfl, encI_of_fields h7 hop⟩
  · exact ⟨rfl, rfl⟩
  · exact ⟨rfl, rfl⟩
  · exact ⟨rfl, rfl⟩
  · exact ⟨rfl, rfl⟩
  · exact ⟨rfl, rfl⟩

theorem match32_encodedAs {w : BitVec 32} {i : Instr} (h : match32 w = some i) : EncodedAs i (.full w) := by
  simp only [match32, ite_eq_iff, Option.some.injEq, reduceCtorEq, and_false, or_false] at h
  rcases h with ⟨hop, rfl⟩ | ⟨-, ⟨hop, rfl⟩ | ⟨-, ⟨hop, rfl⟩ | ⟨-, ⟨hop, h3, rfl⟩ | ⟨-, ⟨hop, h⟩ | ⟨-, ⟨hop, h⟩ |
    ⟨-, ⟨hop, h⟩ | ⟨-, ⟨hop, h⟩ | ⟨-, ⟨hop, h⟩ | ⟨-, ⟨hop, h⟩ | ⟨-, hop, h⟩⟩⟩⟩⟩⟩⟩⟩⟩⟩
  · exact ⟨rfl, encU_of_fields hop⟩
  · exact ⟨rfl, encU_of_fields hop⟩
  · exact ⟨lowZero_immJ w, encJ_fields hop⟩
  · exact ⟨rfl, encI_of_fields h3 hop⟩
  · exact decodeBranch_encodedAs hop h
  · exact decodeLoad_encodedAs hop h
  · exact decodeStore_encodedAs hop h
  · exact decodeOpImm_encodedAs hop h
  · exact decodeOp_encodedAs hop h
  · exact decodeMiscMem_encodedAs hop h
  · exact decodeSystem_encodedAs hop h

/-! ## 16-bit words, by quadrant (30 R202, R203) -/

/-- Scaled immediates and even offsets end in zeros (30 R204). -/
theorem lowZero_append_zero {n : Nat} (x : BitVec n) (k : Nat) : lowZero (x ++ 0#k) k = true := by
  rw [lowZero, extract_append_low x 0#k 0 k (by omega), extract_self]
  exact beq_self_eq_true _

theorem cimmAddi4spn_ne {w : BitVec 16} (h : w.extractLsb' 5 8 ≠ 0#8) : cimmAddi4spn w ≠ 0#10 := by
  intro h0
  rw [← cimmAddi4spn_scrambled, h0] at h
  exact h rfl

theorem cimmAddi16sp_ne {w : BitVec 16} (h : cimm6 w ≠ 0#6) : cimmAddi16sp w ≠ 0#10 := by
  intro h0
  have hsign := cimmAddi16sp_sign w
  have hlow := cimmAddi16sp_scrambled w
  rw [h0] at hsign hlow
  rw [cimm6, ← hsign, show w.extractLsb' 2 5 = crs2 w from rfl, ← hlow] at h
  exact h rfl

theorem cimmLui_ne {w : BitVec 16} (h : cimm6 w ≠ 0#6) : cimmLui w ≠ 0#18 := by
  intro h0
  have hhigh : (cimmLui w).extractLsb' 12 6 = cimm6 w := by
    rw [cimmLui, extract_append_high _ _ _ _ (by decide)]
    exact extract_self (cimm6 w)
  rw [← hhigh, h0] at h
  exact h rfl

theorem decodeQ0_encodedAs {w : BitVec 16} {i : Instr} (hq : w.extractLsb' 0 2 = 0b00#2) (h : decodeQ0 w = some i) :
    EncodedAs i (.half w) := by
  simp only [decodeQ0, ite_eq_iff, Option.some.injEq, reduceCtorEq, and_false, or_false, false_or] at h
  rcases h with ⟨rfl, rfl⟩ | ⟨-, ⟨h0, himm, rfl⟩ | ⟨-, ⟨h2, rfl⟩ | ⟨-, h6, rfl⟩⟩⟩
  · exact ⟨rfl, rfl⟩
  · refine ⟨?_, encode_cAddi4spn_fields h0 hq⟩
    have hlow : lowZero (cimmAddi4spn w) 2 = true := lowZero_append_zero _ 2
    simp [Instr.wf, hlow, cimmAddi4spn_ne himm]
  · exact ⟨lowZero_append_zero _ 2, by rw [← encCL_fields hq, h2]; rfl⟩
  · exact ⟨lowZero_append_zero _ 2, by rw [← encCL_fields hq, h6]; rfl⟩

theorem encCI_of_fields {w : BitVec 16} {f : BitVec 3} {b : BitVec 1} {q : BitVec 2} (hf : w.extractLsb' 13 3 = f)
    (hb : w.extractLsb' 12 1 = b) (hq : w.extractLsb' 0 2 = q) : encCI f b (crd w) (crs2 w) q = .half w := by
  rw [← hf, ← hb, ← hq, encCI_fields]

theorem encCImm_of_fields {w : BitVec 16} {f : BitVec 3} {q : BitVec 2} (hf : w.extractLsb' 13 3 = f)
    (hq : w.extractLsb' 0 2 = q) : encCImm f (cimm6 w) (crd w) q = .half w := by
  rw [← hf, ← hq, encCImm_fields]

theorem encCShift_of_fields {w : BitVec 16} {b : BitVec 1} {g : BitVec 2} (hf : w.extractLsb' 13 3 = 0b100#3)
    (hb : w.extractLsb' 12 1 = b) (hg : w.extractLsb' 10 2 = g) (hq : w.extractLsb' 0 2 = 0b01#2) :
    encCShift b g (cregHigh w) (crs2 w) = .half w := by
  rw [← hb, ← hg, encCShift_fields hf hq]

theorem encode_cAndi_of_fields {w : BitVec 16} (hf : w.extractLsb' 13 3 = 0b100#3) (hg : w.extractLsb' 10 2 = 0b10#2)
    (hq : w.extractLsb' 0 2 = 0b01#2) : encode (.cAndi (cregHigh w) (cimm6 w)) = .half w := by
  rw [encode, cimm6, extract_append_high _ _ _ _ (by decide), extract_append_low _ _ _ _ (by decide), extract_self,
    extract_self]
  exact encCShift_of_fields hf rfl hg hq

/-- The two-register forms of quadrant 01, by the bits above their registers. -/
theorem encCA_of_fields {w : BitVec 16} {g : BitVec 2} (hf : w.extractLsb' 13 3 = 0b100#3)
    (hb : w.extractLsb' 12 1 = 0#1) (hh : w.extractLsb' 10 2 = 0b11#2) (hg : w.extractLsb' 5 2 = g)
    (hq : w.extractLsb' 0 2 = 0b01#2) : encCA (cregHigh w) g (cregLow w) = .half w := by
  have hfunct : w.extractLsb' 10 6 = 0b100011#6 := by
    have hjoin : w.extractLsb' 13 3 ++ w.extractLsb' 12 1 ++ w.extractLsb' 10 2 = w.extractLsb' 10 6 := by
      simp (disch := decide) only [extract_append_extract]
    rw [← hjoin, hf, hb, hh]
    rfl
  rw [← hg, encCA_fields hfunct hq]

theorem decodeQ1Alu_encodedAs {w : BitVec 16} {i : Instr} (hq : w.extractLsb' 0 2 = 0b01#2)
    (hf : w.extractLsb' 13 3 = 0b100#3) (h : decodeQ1Alu w = some i) : EncodedAs i (.half w) := by
  have hlast : ∀ g : BitVec 2, g ≠ 0b00#2 → g ≠ 0b01#2 → g ≠ 0b10#2 → g = 0b11#2 := by decide
  simp only [decodeQ1Alu, ite_eq_iff, Option.some.injEq, reduceCtorEq, and_false, or_false] at h
  rcases h with ⟨hg, hb, rfl⟩ | ⟨n0, ⟨hg, hb, rfl⟩ | ⟨n1, ⟨hg, rfl⟩ | ⟨n2, hb, ⟨hh, rfl⟩ | ⟨m0, ⟨hh, rfl⟩ |
    ⟨m1, ⟨hh, rfl⟩ | ⟨m2, rfl⟩⟩⟩⟩⟩⟩
  · exact ⟨rfl, encCShift_of_fields hf hb hg hq⟩
  · exact ⟨rfl, encCShift_of_fields hf hb hg hq⟩
  · exact ⟨rfl, encode_cAndi_of_fields hf hg hq⟩
  · exact ⟨rfl, encCA_of_fields hf hb (hlast _ n0 n1 n2) hh hq⟩
  · exact ⟨rfl, encCA_of_fields hf hb (hlast _ n0 n1 n2) hh hq⟩
  · exact ⟨rfl, encCA_of_fields hf hb (hlast _ n0 n1 n2) hh hq⟩
  · exact ⟨rfl, encCA_of_fields hf hb (hlast _ n0 n1 n2) (hlast _ m0 m1 m2) hq⟩

theorem decodeQ1_encodedAs {w : BitVec 16} {i : Instr} (hq : w.extractLsb' 0 2 = 0b01#2) (h : decodeQ1 w = some i) :
    EncodedAs i (.half w) := by
  simp only [decodeQ1, ite_eq_iff, Option.some.injEq, reduceCtorEq, and_false, false_or] at h
  rcases h with ⟨h0, ⟨hrd, rfl⟩ | ⟨hrd, rfl⟩⟩ | ⟨n0, ⟨h1, rfl⟩ | ⟨n1, ⟨h2, rfl⟩ | ⟨n2, ⟨h3, himm, ⟨hrd, rfl⟩ |
    ⟨hrd, rfl⟩⟩ | ⟨n3, ⟨h4, h⟩ | ⟨n4, ⟨h5, rfl⟩ | ⟨n5, ⟨h6, rfl⟩ | ⟨n6, rfl⟩⟩⟩⟩⟩⟩⟩
  · exact ⟨rfl, by rw [encode, ← hrd, encCImm_of_fields h0 hq]⟩
  · exact ⟨by simpa [Instr.wf] using hrd, encCImm_of_fields h0 hq⟩
  · exact ⟨lowZero_append_zero _ 1, by rw [← encCJ_fields hq, h1]; rfl⟩
  · exact ⟨rfl, encCImm_of_fields h2 hq⟩
  · refine ⟨?_, encode_cAddi16sp_fields h3 hq hrd⟩
    have hlow : lowZero (cimmAddi16sp w) 4 = true := lowZero_append_zero _ 4
    simp [Instr.wf, hlow, cimmAddi16sp_ne himm]
  · refine ⟨?_, encode_cLui_fields h3 hq⟩
    have hlow : lowZero (cimmLui w) 12 = true := lowZero_append_zero _ 12
    simp [Instr.wf, hlow, cimmLui_ne himm, hrd]
  · exact decodeQ1Alu_encodedAs hq h4 h
  · exact ⟨lowZero_append_zero _ 1, by rw [← encCJ_fields hq, h5]; rfl⟩
  · exact ⟨lowZero_append_zero _ 1, by rw [← encCB_fields hq, h6]; rfl⟩
  · exact ⟨lowZero_append_zero _ 1, by rw [← encCB_fields hq, funct3_last n0 n1 n2 n3 n4 n5 n6]; rfl⟩

/-- The register forms of quadrant 10, by the bits above their registers. -/
theorem encCR_of_fields {w : BitVec 16} {b : BitVec 1} {f : BitVec 4} (hf : w.extractLsb' 13 3 = 0b100#3)
    (hb : w.extractLsb' 12 1 = b) (h : 0b100#3 ++ b = f) (hq : w.extractLsb' 0 2 = 0b10#2) :
    encCR f (crd w) (crs2 w) = .half w := by
  rw [← h, ← hf, ← hb, extract_append_extract w 3 (by decide)]
  exact encCR_fields hq

theorem decodeQ2_encodedAs {w : BitVec 16} {i : Instr} (hq : w.extractLsb' 0 2 = 0b10#2) (h : decodeQ2 w = some i) :
    EncodedAs i (.half w) := by
  simp only [decodeQ2, ite_eq_iff, Option.some.injEq, reduceCtorEq, and_false, or_false, false_or] at h
  rcases h with ⟨h0, hb, rfl⟩ | ⟨-, ⟨h2, hrd, rfl⟩ | ⟨-, ⟨h4, ⟨hb, ⟨hrs2, hrd, rfl⟩ | ⟨hrs2, rfl⟩⟩ | ⟨hb, ⟨hrs2,
    ⟨hrd, rfl⟩ | ⟨hrd, rfl⟩⟩ | ⟨hrs2, rfl⟩⟩⟩ | ⟨-, h6, rfl⟩⟩⟩
  · exact ⟨rfl, encCI_of_fields h0 hb hq⟩
  · refine ⟨?_, encode_cLwsp_fields h2 hq⟩
    have hlow : lowZero (cimmLwsp w) 2 = true := lowZero_append_zero _ 2
    simp [Instr.wf, hlow, hrd]
  · exact ⟨by simpa [Instr.wf] using hrd, by rw [encode, ← hrs2]; exact encCR_of_fields h4 hb rfl hq⟩
  · exact ⟨by simpa [Instr.wf] using hrs2, encCR_of_fields h4 hb rfl hq⟩
  · have hb1 : w.extractLsb' 12 1 = 1#1 := by bv_omega
    have henc : encCR 0b1001#4 (crd w) (crs2 w) = .half w := encCR_of_fields h4 hb1 rfl hq
    rw [hrd, hrs2] at henc
    exact ⟨rfl, henc⟩
  · have hb1 : w.extractLsb' 12 1 = 1#1 := by bv_omega
    exact ⟨by simpa [Instr.wf] using hrd, by rw [encode, ← hrs2]; exact encCR_of_fields h4 hb1 rfl hq⟩
  · have hb1 : w.extractLsb' 12 1 = 1#1 := by bv_omega
    exact ⟨by simpa [Instr.wf] using hrs2, encCR_of_fields h4 hb1 rfl hq⟩
  · exact ⟨lowZero_append_zero _ 2, encode_cSwsp_fields h6 hq⟩

theorem match16_encodedAs {w : BitVec 16} {i : Instr} (h : match16 w = some i) : EncodedAs i (.half w) := by
  simp only [match16, ite_eq_iff, reduceCtorEq, and_false, or_false] at h
  rcases h with ⟨hq, h⟩ | ⟨-, ⟨hq, h⟩ | ⟨-, hq, h⟩⟩
  · exact decodeQ0_encodedAs hq h
  · exact decodeQ1_encodedAs hq h
  · exact decodeQ2_encodedAs hq h

/-! ## The decoder -/

theorem match16_of_decode {w : BitVec 16} {i : Instr} (h : decode (.half w) = .ok i) : match16 w = some i := by
  simp only [decode, decode16] at h
  split at h <;> cases h
  assumption

theorem match32_of_decode {w : BitVec 32} {i : Instr} (h : decode (.full w) = .ok i) : match32 w = some i := by
  simp only [decode, decode32] at h
  split at h
  · cases h; assumption
  · split at h <;> cases h

/-- Settles O54: by the length of the pattern, row by row. -/
theorem encodeDecode : Obligations.EncodeDecode := by
  intro e i h
  cases e with
  | half w => exact match16_encodedAs (match16_of_decode h)
  | full w => exact match32_encodedAs (match32_of_decode h)

end Sys2Proof
end

section
/-! SUPPORT. The rows of the loads, stores, SYSTEM and MISC-MEM, and of the compressed instructions with a scrambled
immediate, from the fields of their encodings (spec/30_encoding.md R191, R195, R196, R202, R204). -/

namespace Sys2Proof

/-! ## 32-bit words (30 R184, R191, R195, R196) -/

@[simp] theorem immS_append (hi : BitVec 7) (rs2 rs1 : Reg) (f3 : BitVec 3) (lo : BitVec 5) (op : BitVec 7) :
    immS (hi ++ rs2 ++ rs1 ++ f3 ++ lo ++ op) = hi ++ lo := by
  simp (disch := decide) only [immS, extract_append_low, extract_append_high, Nat.reduceSub, extract_self]

theorem match32_of_load {w : BitVec 32} (h : opcode w = 0b0000011#7) : match32 w = decodeLoad w := by
  simp [match32, h]

theorem match32_of_store {w : BitVec 32} (h : opcode w = 0b0100011#7) : match32 w = decodeStore w := by
  simp [match32, h]

theorem match32_of_system {w : BitVec 32} (h : opcode w = 0b1110011#7) : match32 w = decodeSystem w := by
  simp [match32, h]

/-- Where `funct3` is given in digits, the row follows by the fields. -/
theorem decode_load {imm : BitVec 12} {rs1 : Reg} {f3 : BitVec 3} {rd : Reg} {i : Instr}
    (h : decodeLoad (imm ++ rs1 ++ f3 ++ rd ++ 0b0000011#7) = some i := by simp [decodeLoad]) :
    decode (.full (imm ++ rs1 ++ f3 ++ rd ++ 0b0000011#7)) = .ok i :=
  decode_full_of_match32 ((match32_of_load (opcode_append _ _)).trans h)

/-- Where `funct3` is given in digits, the row follows by the fields. -/
theorem decode_store {hi : BitVec 7} {rs2 rs1 : Reg} {f3 : BitVec 3} {lo : BitVec 5} {i : Instr}
    (h : decodeStore (hi ++ rs2 ++ rs1 ++ f3 ++ lo ++ 0b0100011#7) = some i := by simp [decodeStore]) :
    decode (.full (hi ++ rs2 ++ rs1 ++ f3 ++ lo ++ 0b0100011#7)) = .ok i :=
  decode_full_of_match32 ((match32_of_store (opcode_append _ _)).trans h)

/-- Where `funct3` is given in digits, and is not 000, the row follows by the fields. -/
theorem decode_csr {csr : BitVec 12} {src : BitVec 5} {f3 : BitVec 3} {rd : Reg} {i : Instr}
    (h : decodeSystem (csr ++ src ++ f3 ++ rd ++ 0b1110011#7) = some i := by simp [decodeSystem]) :
    decode (.full (csr ++ src ++ f3 ++ rd ++ 0b1110011#7)) = .ok i :=
  decode_full_of_match32 ((match32_of_system (opcode_append _ _)).trans h)

theorem decode_fenceI (imm : BitVec 12) (rs1 rd : Reg) :
    decode (.full (imm ++ rs1 ++ 0b001#3 ++ rd ++ 0b0001111#7)) = .ok (.fenceI imm rs1 rd) :=
  decode_full_of_match32 ((match32_of_miscMem (opcode_append _ _)).trans (by simp [decodeMiscMem]))

/-! ## 16-bit words (30 R202, R204) -/

theorem decode_cLw (u53 : BitVec 3) (rs1 : CReg) (u2 u6 : BitVec 1) (rd : CReg) :
    decode (.half (0b010#3 ++ u53 ++ rs1 ++ u2 ++ u6 ++ rd ++ 0b00#2)) = .ok (.cLw rd rs1 (u6 ++ u53 ++ u2 ++ 0#2)) := by
  have hf : (0b010#3 ++ u53 ++ rs1 ++ u2 ++ u6 ++ rd ++ 0b00#2).extractLsb' 13 3 = 0b010#3 := by
    simp (disch := decide) only [extract_append_high, Nat.reduceSub, extract_self]
  have hw : 0b010#3 ++ u53 ++ rs1 ++ u2 ++ u6 ++ rd ++ 0b00#2 ≠ 0#16 := fun h0 => by rw [h0] at hf; cases hf
  refine decode_half_of_match16 ((match16_append_quadrant0 _).trans ?_)
  rw [decodeQ0, if_neg hw, hf, if_neg (by decide), if_pos rfl]
  simp (disch := decide) only [cregLow, cregHigh, cimmLw, extract_append_low, extract_append_high, Nat.reduceSub,
    extract_self]

theorem decode_cSw (u53 : BitVec 3) (rs1 : CReg) (u2 u6 : BitVec 1) (rs2 : CReg) :
    decode (.half (0b110#3 ++ u53 ++ rs1 ++ u2 ++ u6 ++ rs2 ++ 0b00#2)) =
      .ok (.cSw rs2 rs1 (u6 ++ u53 ++ u2 ++ 0#2)) := by
  have hf : (0b110#3 ++ u53 ++ rs1 ++ u2 ++ u6 ++ rs2 ++ 0b00#2).extractLsb' 13 3 = 0b110#3 := by
    simp (disch := decide) only [extract_append_high, Nat.reduceSub, extract_self]
  have hw : 0b110#3 ++ u53 ++ rs1 ++ u2 ++ u6 ++ rs2 ++ 0b00#2 ≠ 0#16 := fun h0 => by rw [h0] at hf; cases hf
  refine decode_half_of_match16 ((match16_append_quadrant0 _).trans ?_)
  rw [decodeQ0, if_neg hw, hf, if_neg (by decide), if_neg (by decide), if_pos rfl]
  simp (disch := decide) only [cregLow, cregHigh, cimmLw, extract_append_low, extract_append_high, Nat.reduceSub,
    extract_self]

theorem decode_cLwsp (u5 : BitVec 1) {rd : Reg} (hrd : rd ≠ 0#5) (u42 : BitVec 3) (u76 : BitVec 2) :
    decode (.half (0b010#3 ++ u5 ++ rd ++ u42 ++ u76 ++ 0b10#2)) = .ok (.cLwsp rd (u76 ++ u5 ++ u42 ++ 0#2)) := by
  refine decode_half_of_match16 ((match16_append_quadrant2 _).trans ?_)
  simp (disch := decide) only [decodeQ2, crd, cimmLwsp, extract_append_low, extract_append_high, Nat.reduceSub,
    extract_self, BitVec.reduceEq, hrd, if_true, if_false]

theorem decode_cSwsp (u52 : BitVec 4) (u76 : BitVec 2) (rs2 : Reg) :
    decode (.half (0b110#3 ++ u52 ++ u76 ++ rs2 ++ 0b10#2)) = .ok (.cSwsp rs2 (u76 ++ u52 ++ 0#2)) := by
  refine decode_half_of_match16 ((match16_append_quadrant2 _).trans ?_)
  simp (disch := decide) only [decodeQ2, crs2, cimmSwsp, extract_append_low, extract_append_high, Nat.reduceSub,
    extract_self, BitVec.reduceEq, if_true, if_false]

end Sys2Proof
end

section
/-! SUPPORT. Decoding undoes encoding: the bytes of an instruction in memory, the scaled and scrambled immediates put in
order again, and the rows one by one (spec/30_encoding.md R180 to R204; spec/20_memory.md R136). -/

namespace Sys2Proof

/-! ## Bytes (20 R136; 30 R180) -/

/-- What decodes from 16 bits does not begin as a 32-bit instruction does. -/
theorem parcelIsFull_of_match16 {w : BitVec 16} {i : Instr} (h : match16 w = some i) : parcelIsFull w = false := by
  simp only [match16, ite_eq_iff, reduceCtorEq, and_false, or_false] at h
  rcases h with ⟨hq, -⟩ | ⟨-, ⟨hq, -⟩ | ⟨-, hq, -⟩⟩ <;> rw [parcelIsFull, hq] <;> rfl

/-- What decodes from 32 bits begins as a 32-bit instruction does. -/
theorem parcelIsFull_of_match32 {w : BitVec 32} {i : Instr} (h : match32 w = some i) :
    parcelIsFull (w.extractLsb' 0 16) = true := by
  have hmajor : opcode w ∈ majorOpcodes := by
    by_contra habsent
    rw [match32_of_opcode_absent habsent] at h
    cases h
  have hlow : ∀ o ∈ majorOpcodes, o.extractLsb' 0 2 = 0b11#2 := by decide
  rw [parcelIsFull, beq_iff_eq, extract_extract w (by decide), ← extract_extract w (k := 0) (l := 7) (by decide)]
  exact hlow _ hmajor

theorem decode16_of_match16 {w : BitVec 16} {i : Instr} (h : match16 w = some i) : decode16 w = .ok i :=
  decode_half_of_match16 h

theorem decode32_of_match32 {w : BitVec 32} {i : Instr} (h : match32 w = some i) : decode32 w = .ok i :=
  decode_full_of_match32 h

/-- What the bits decode to is what their bytes decode to, whatever follows them. -/
theorem decodeBytes_of_decode {e : Encoded} {i : Instr} (h : decode e = .ok i) (rest : List Byte) :
    decodeBytes (e.bytes ++ rest) = .ok (i, rest) := by
  cases e with
  | half w =>
    have hmatch := match16_of_decode h
    have hw : w.extractLsb' 8 8 ++ w.extractLsb' 0 8 = w := (extract_append_extract w 8 rfl).trans (extract_self w)
    simp only [Encoded.bytes, List.cons_append, List.nil_append, decodeBytes]
    rw [hw, parcelIsFull_of_match16 hmatch, decode16_of_match16 hmatch]
    rfl
  | full w =>
    have hmatch := match32_of_decode h
    have hlow : w.extractLsb' 8 8 ++ w.extractLsb' 0 8 = w.extractLsb' 0 16 := extract_append_extract w 8 rfl
    have hw : w.extractLsb' 24 8 ++ w.extractLsb' 16 8 ++ w.extractLsb' 8 8 ++ w.extractLsb' 0 8 = w := by
      simp (disch := decide) only [extract_append_extract, extract_self]
    simp only [Encoded.bytes, List.cons_append, List.nil_append, decodeBytes]
    rw [hw, hlow, parcelIsFull_of_match32 hmatch, decode32_of_match32 hmatch]
    rfl

/-! ## Immediates put in order again (30 R184, R185, R187, R204) -/

/-- A multiple of 2^k ends in `k` zeros. -/
theorem extract_of_lowZero {n k : Nat} {v : BitVec n} (h : lowZero v k = true) : v.extractLsb' 0 k = 0#k := eq_of_beq h

theorem immS_ordered (v : BitVec 12) : v.extractLsb' 5 7 ++ v.extractLsb' 0 5 = v :=
  (extract_append_extract v 7 rfl).trans (extract_self v)

theorem immB_ordered {v : BitVec 13} (h : lowZero v 1 = true) :
    v.extractLsb' 12 1 ++ v.extractLsb' 11 1 ++ v.extractLsb' 5 6 ++ v.extractLsb' 1 4 ++ 0#1 = v := by
  rw [← extract_of_lowZero h]
  simp (disch := decide) only [extract_append_extract, extract_self]

theorem immJ_ordered {v : BitVec 21} (h : lowZero v 1 = true) :
    v.extractLsb' 20 1 ++ v.extractLsb' 12 8 ++ v.extractLsb' 11 1 ++ v.extractLsb' 1 10 ++ 0#1 = v := by
  rw [← extract_of_lowZero h]
  simp (disch := decide) only [extract_append_extract, extract_self]

theorem cimm6_ordered (v : BitVec 6) : v.extractLsb' 5 1 ++ v.extractLsb' 0 5 = v :=
  (extract_append_extract v 1 rfl).trans (extract_self v)

theorem cimmLw_ordered {v : BitVec 7} (h : lowZero v 2 = true) :
    v.extractLsb' 6 1 ++ v.extractLsb' 3 3 ++ v.extractLsb' 2 1 ++ 0#2 = v := by
  rw [← extract_of_lowZero h]
  simp (disch := decide) only [extract_append_extract, extract_self]

theorem cimmJ_ordered {v : BitVec 12} (h : lowZero v 1 = true) :
    v.extractLsb' 11 1 ++ v.extractLsb' 10 1 ++ v.extractLsb' 8 2 ++ v.extractLsb' 7 1 ++ v.extractLsb' 6 1
      ++ v.extractLsb' 5 1 ++ v.extractLsb' 4 1 ++ v.extractLsb' 1 3 ++ 0#1 = v := by
  rw [← extract_of_lowZero h]
  simp (disch := decide) only [extract_append_extract, extract_self]

theorem cimmB_ordered {v : BitVec 9} (h : lowZero v 1 = true) :
    v.extractLsb' 8 1 ++ v.extractLsb' 6 2 ++ v.extractLsb' 5 1 ++ v.extractLsb' 3 2 ++ v.extractLsb' 1 2 ++ 0#1 =
      v := by
  rw [← extract_of_lowZero h]
  simp (disch := decide) only [extract_append_extract, extract_self]

theorem cimmAddi4spn_ordered {v : BitVec 10} (h : lowZero v 2 = true) :
    v.extractLsb' 6 4 ++ v.extractLsb' 4 2 ++ v.extractLsb' 3 1 ++ v.extractLsb' 2 1 ++ 0#2 = v := by
  rw [← extract_of_lowZero h]
  simp (disch := decide) only [extract_append_extract, extract_self]

theorem cimmAddi16sp_ordered {v : BitVec 10} (h : lowZero v 4 = true) :
    v.extractLsb' 9 1 ++ v.extractLsb' 7 2 ++ v.extractLsb' 6 1 ++ v.extractLsb' 5 1 ++ v.extractLsb' 4 1 ++ 0#4 =
      v := by
  rw [← extract_of_lowZero h]
  simp (disch := decide) only [extract_append_extract, extract_self]

theorem cimmLui_ordered {v : BitVec 18} (h : lowZero v 12 = true) :
    v.extractLsb' 17 1 ++ v.extractLsb' 12 5 ++ 0#12 = v := by
  rw [← extract_of_lowZero h]
  simp (disch := decide) only [extract_append_extract, extract_self]

theorem cimmLwsp_ordered {v : BitVec 8} (h : lowZero v 2 = true) :
    v.extractLsb' 6 2 ++ v.extractLsb' 5 1 ++ v.extractLsb' 2 3 ++ 0#2 = v := by
  rw [← extract_of_lowZero h]
  simp (disch := decide) only [extract_append_extract, extract_self]

theorem cimmSwsp_ordered {v : BitVec 8} (h : lowZero v 2 = true) :
    v.extractLsb' 6 2 ++ v.extractLsb' 2 4 ++ 0#2 = v := by
  rw [← extract_of_lowZero h]
  simp (disch := decide) only [extract_append_extract, extract_self]

/-! ## Immediates other than 0 (30 R212; 45 R362, R369, R370) -/

/-- Two fields are 0 together exactly if each one is. -/
theorem append_eq_zero {n m : Nat} (x : BitVec n) (y : BitVec m) : x ++ y = 0#(n + m) ↔ x = 0#n ∧ y = 0#m := by
  constructor
  · intro h
    constructor
    · have := congrArg (BitVec.extractLsb' m n) h
      rw [extract_append_high x y m n le_rfl, Nat.sub_self, extract_self] at this
      rw [this]
      ext j hj
      simp
    · have := congrArg (BitVec.extractLsb' 0 m) h
      rw [extract_append_low x y 0 m (Nat.zero_add m).le, extract_self] at this
      rw [this]
      ext j hj
      simp
  · rintro ⟨rfl, rfl⟩
    exact BitVec.zero_append_zero

theorem cimmAddi4spn_scrambled_ne {v : BitVec 10} (h : lowZero v 2 = true) (hne : v ≠ 0#10) :
    v.extractLsb' 4 2 ++ v.extractLsb' 6 4 ++ v.extractLsb' 2 1 ++ v.extractLsb' 3 1 ≠ 0#8 := by
  intro h0
  obtain ⟨h0, h3⟩ := (append_eq_zero _ _).1 h0
  obtain ⟨h0, h2⟩ := (append_eq_zero _ _).1 h0
  obtain ⟨h4, h6⟩ := (append_eq_zero _ _).1 h0
  rw [← cimmAddi4spn_ordered h, h6, h4, h3, h2] at hne
  exact hne rfl

theorem cimmAddi16sp_scrambled_ne {v : BitVec 10} (h : lowZero v 4 = true) (hne : v ≠ 0#10) :
    v.extractLsb' 9 1 ++ v.extractLsb' 4 1 ++ v.extractLsb' 6 1 ++ v.extractLsb' 7 2 ++ v.extractLsb' 5 1 ≠ 0#6 := by
  intro h0
  obtain ⟨h0, h5⟩ := (append_eq_zero _ _).1 h0
  obtain ⟨h0, h7⟩ := (append_eq_zero _ _).1 h0
  obtain ⟨h0, h6⟩ := (append_eq_zero _ _).1 h0
  obtain ⟨h9, h4⟩ := (append_eq_zero _ _).1 h0
  rw [← cimmAddi16sp_ordered h, h9, h7, h6, h5, h4] at hne
  exact hne rfl

theorem cimmLui_fields_ne {v : BitVec 18} (h : lowZero v 12 = true) (hne : v ≠ 0#18) :
    v.extractLsb' 17 1 ++ v.extractLsb' 12 5 ≠ 0#6 := by
  intro h0
  rw [← cimmLui_ordered h, h0] at hne
  exact hne rfl

/-! ## The rows (30 R190 to R204) -/

/-- The low bits of the immediate of C.ADDI16SP stand where C.LUI has one field (30 R204). -/
theorem append_lowFields {n : Nat} (high : BitVec n) (n4 n6 : BitVec 1) (n87 : BitVec 2) (n5 : BitVec 1) :
    high ++ (n4 ++ n6 ++ n87 ++ n5) = high ++ n4 ++ n6 ++ n87 ++ n5 := by
  simp only [BitVec.append_assoc, BitVec.cast_eq]

/-- C.LWSP has two fields of its offset where the CI format has five bits (30 R204). -/
theorem append_offsetFields {n : Nat} (high : BitVec n) (u42 : BitVec 3) (u76 : BitVec 2) :
    high ++ (u42 ++ u76) = high ++ u42 ++ u76 := by
  simp only [BitVec.append_assoc, BitVec.cast_eq]

/-- Each instruction by its row, with its immediate put in order. -/
theorem decode_encode {i : Instr} (h : i.wf = true) : decode (encode i) = .ok i := by
  cases i with
  | lui rd imm => exact decode_lui rd imm
  | auipc rd imm => exact decode_auipc rd imm
  | jal rd o =>
    rw [encode, encJ, decode_jal, immJ_ordered h]
  | jalr rd rs1 imm => exact decode_jalr imm rs1 rd
  | beq rs1 rs2 o | bne rs1 rs2 o | blt rs1 rs2 o | bge rs1 rs2 o | bltu rs1 rs2 o | bgeu rs1 rs2 o =>
    conv_rhs => rw [← immB_ordered h]
    exact decode_branch
  | lb | lh | lw | lbu | lhu => exact decode_load
  | sb rs2 rs1 imm | sh rs2 rs1 imm | sw rs2 rs1 imm =>
    conv_rhs => rw [← immS_ordered imm]
    exact decode_store
  | addi | slti | sltiu | xori | ori | andi | slli | srli | srai => exact decode_opImm
  | add | sub | sll | slt | sltu | xor | srl | sra | or | and => exact decode_op
  | mul | mulh | mulhsu | mulhu | div | divu | rem | remu => exact decode_op
  | fence fm p q rs1 rd => exact decode_fence fm p q rs1 rd
  | fenceI imm rs1 rd => exact decode_fenceI imm rs1 rd
  | ecall | ebreak | mret | wfi | dret => rfl
  | csrrw | csrrs | csrrc | csrrwi | csrrsi | csrrci => exact decode_csr
  | cIllegal | cEbreak => rfl
  | cAddi4spn rd u =>
    obtain ⟨hlow, hne⟩ := Bool.and_eq_true_iff.1 h
    rw [encode, decode_cAddi4spn (cimmAddi4spn_scrambled_ne hlow (bne_iff_ne.1 hne)), cimmAddi4spn_ordered hlow]
  | cLw rd rs1 u => rw [encode, encCL, decode_cLw, cimmLw_ordered h]
  | cSw rs2 rs1 u => rw [encode, encCL, decode_cSw, cimmLw_ordered h]
  | cNop imm =>
    rw [encode, encCImm, encCI, decode_cNop, cimm6_ordered]
  | cAddi rd imm =>
    have hrd : rd ≠ 0#5 := bne_iff_ne.1 h
    conv_rhs => rw [← cimm6_ordered imm]
    exact decode_quadrant1
  | cJal o =>
    conv_rhs => rw [← cimmJ_ordered h]
    exact decode_quadrant1
  | cLi rd imm =>
    conv_rhs => rw [← cimm6_ordered imm]
    exact decode_quadrant1
  | cAddi16sp v =>
    obtain ⟨hlow, hne⟩ := Bool.and_eq_true_iff.1 h
    rw [encode, encCI, append_lowFields, decode_cAddi16sp (cimmAddi16sp_scrambled_ne hlow (bne_iff_ne.1 hne)),
      cimmAddi16sp_ordered hlow]
  | cLui rd v =>
    obtain ⟨himm, hrd⟩ := Bool.and_eq_true_iff.1 h
    obtain ⟨hlow, hne⟩ := Bool.and_eq_true_iff.1 himm
    have hfields := cimmLui_fields_ne hlow (bne_iff_ne.1 hne)
    have hrd2 : rd ≠ 2#5 := bne_iff_ne.1 hrd
    conv_rhs => rw [← cimmLui_ordered hlow]
    exact decode_quadrant1
  | cSrli | cSrai | cSub | cXor | cOr | cAnd => exact decode_quadrant1
  | cAndi rd imm =>
    conv_rhs => rw [← cimm6_ordered imm]
    exact decode_quadrant1
  | cJ o =>
    conv_rhs => rw [← cimmJ_ordered h]
    exact decode_quadrant1
  | cBeqz rs1 o | cBnez rs1 o =>
    conv_rhs => rw [← cimmB_ordered h]
    exact decode_quadrant1
  | cSlli => exact decode_quadrant2
  | cLwsp rd u =>
    obtain ⟨hlow, hrd⟩ := Bool.and_eq_true_iff.1 h
    rw [encode, encCI, append_offsetFields, decode_cLwsp _ (bne_iff_ne.1 hrd), cimmLwsp_ordered hlow]
  | cJr rs1 | cJalr rs1 =>
    have hrs1 : rs1 ≠ 0#5 := bne_iff_ne.1 h
    exact decode_quadrant2
  | cMv rd rs2 | cAdd rd rs2 =>
    have hrs2 : rs2 ≠ 0#5 := bne_iff_ne.1 h
    exact decode_quadrant2
  | cSwsp rs2 u => rw [encode, decode_cSwsp, cimmSwsp_ordered h]

/-- Settles O53: by the rows, from the words and so from their bytes. -/
theorem decodeEncode : Obligations.DecodeEncode :=
  fun _ h => ⟨decode_encode h, decodeBytes_of_decode (decode_encode h)⟩

/-- Settles O55: the decoder evaluated on the fourteen words. -/
theorem decodedExamples : Obligations.DecodedExamples :=
  ⟨rfl, rfl, rfl, rfl, rfl, rfl, rfl, rfl, rfl, rfl, rfl, rfl, rfl, rfl⟩

end Sys2Proof
end

section
/-! SUPPORT. How every instruction ends, and what a step can do: the case distinctions from which the rules about all
instructions follow (spec/40 to 45; spec/60_exceptions.md R430, R431, R463; spec/62_debug.md R570). -/

namespace Sys2Proof.Machine

/-! ## How an instruction ends -/

/-- The shared operation in which the meaning of `i` in `s` ends, with what the invariants need to know of its
operands. -/
inductive ExecEnds (s : State) (i : Instr) : Host.Outcome State Fault Refusal → Prop where
  | computes (rd : Reg) (v len : Word) (hlen : len.getLsbD 0 = false) : ExecEnds s i (writeAndRetire s rd v len)
  | jumps (rd : Reg) (target len : Word)
      (heven : i.wf = true → s.pc.getLsbD 0 = false → target.getLsbD 0 = false) :
      ExecEnds s i (jumpAndLink s rd target len)
  | branches (c : Bool) (offset len : Word) (heven : i.wf = true → offset.getLsbD 0 = false)
      (hlen : len.getLsbD 0 = false) : ExecEnds s i (branch s c offset len)
  | loads (rd : Reg) (a : Word) (w : Size) (ext : Word → Word) (len : Word) (hi : LoadsFrom s i a w)
      (hlen : len.getLsbD 0 = false) : ExecEnds s i (loadTo s rd a w ext len)
  | stores (a : Word) (w : Size) (v len : Word) (hi : StoresTo s i a w) (hlen : len.getLsbD 0 = false) :
      ExecEnds s i (storeFrom s a w v len)
  | goesOn (len : Word) (hlen : len.getLsbD 0 = false) : ExecEnds s i (.next (retire s (s.pc + len)))
  | refetches : ExecEnds s i (.next (retire { s with unfenced := [] } (s.pc + 4#32)))
  | raises (c : ExceptionCause) (tval : Word) : ExecEnds s i (takeException s c tval)
  | breaks : ExecEnds s i (takeBreakpoint s)
  | accesses (j : CsrAccess) (hi : AccessesCsr i j.csr j.writes) : ExecEnds s i (csrInstruction s j)
  | returns (hi : i = .mret) : ExecEnds s i (execMret s)
  | waits : ExecEnds s i (.next (afterWfi s))
  | leavesDebug : ExecEnds s i (execDret s)

theorem exec_ends (i : Instr) (s : State) : ExecEnds s i (exec i s) := by
  cases i with
  | lui | auipc => exact .computes _ _ _ rfl
  | addi | slti | sltiu | xori | ori | andi | slli | srli | srai => exact .computes _ _ _ rfl
  | add | sub | sll | slt | sltu | xor | srl | sra | or | and => exact .computes _ _ _ rfl
  | mul | mulh | mulhsu | mulhu | div | divu | rem | remu => exact .computes _ _ _ rfl
  | cAddi4spn | cAddi | cLi | cAddi16sp | cLui | cSrli | cSrai | cAndi => exact .computes _ _ _ rfl
  | cSub | cXor | cOr | cAnd | cSlli | cMv | cAdd => exact .computes _ _ _ rfl
  | jal | cJal | cJ => exact .jumps _ _ _ fun hwf hpc => even_add hpc (even_sext hwf)
  | jalr | cJr | cJalr => exact .jumps _ _ _ fun _ _ => even_clearBit0 _
  | beq | bne | blt | bge | bltu | bgeu | cBeqz | cBnez => exact .branches _ _ _ (fun hwf => even_sext hwf) rfl
  | lb => exact .loads _ _ _ _ _ (.lb _ _ _) rfl
  | lh => exact .loads _ _ _ _ _ (.lh _ _ _) rfl
  | lw => exact .loads _ _ _ _ _ (.lw _ _ _) rfl
  | lbu => exact .loads _ _ _ _ _ (.lbu _ _ _) rfl
  | lhu => exact .loads _ _ _ _ _ (.lhu _ _ _) rfl
  | cLw => exact .loads _ _ _ _ _ (.cLw _ _ _) rfl
  | cLwsp => exact .loads _ _ _ _ _ (.cLwsp _ _) rfl
  | sb => exact .stores _ _ _ _ (.sb _ _ _) rfl
  | sh => exact .stores _ _ _ _ (.sh _ _ _) rfl
  | sw => exact .stores _ _ _ _ (.sw _ _ _) rfl
  | cSw => exact .stores _ _ _ _ (.cSw _ _ _) rfl
  | cSwsp => exact .stores _ _ _ _ (.cSwsp _ _) rfl
  | fence | cNop => exact .goesOn _ rfl
  | fenceI => exact .refetches
  | ecall | cIllegal => exact .raises _ _
  | ebreak | cEbreak => exact .breaks
  | csrrw => exact .accesses _ (.csrrw _ _ _)
  | csrrs => exact .accesses _ (.csrrs _ _ _)
  | csrrc => exact .accesses _ (.csrrc _ _ _)
  | csrrwi => exact .accesses _ (.csrrwi _ _ _)
  | csrrsi => exact .accesses _ (.csrrsi _ _ _)
  | csrrci => exact .accesses _ (.csrrci _ _ _)
  | mret => exact .returns rfl
  | wfi => exact .waits
  | dret => exact .leavesDebug

theorem exec_next_ends {i : Instr} {s t : State} (h : exec i s = .next t) : ∃ o, ExecEnds s i o ∧ o = .next t :=
  ⟨_, exec_ends i s, h⟩

/-! ## What a next state of an instruction differs in -/

/-- Nothing differs but the registers, the pc, the count, what trap entry saves, what the entry into debug mode and WFI
change, and what the interrupt logic may see of older values. -/
def QuietFrame (s t : State) : Prop :=
  t = { s with
    x := t.x, pc := t.pc, minstret := t.minstret, clicOld := t.clicOld, debugMode := t.debugMode, dpc := t.dpc,
    waiting := t.waiting, mepc := t.mepc, mcauseInterrupt := t.mcauseInterrupt, mcauseCode := t.mcauseCode,
    mtval := t.mtval, mstatusMpie := t.mstatusMpie, mstatusMie := t.mstatusMie, mcauseMpil := t.mcauseMpil }

theorem QuietFrame.mem {s t : State} (h : QuietFrame s t) : t.mem = s.mem := by rw [h]
theorem QuietFrame.unfenced {s t : State} (h : QuietFrame s t) : t.unfenced = s.unfenced := by rw [h]
theorem QuietFrame.clic {s t : State} (h : QuietFrame s t) : t.clic = s.clic := by rw [h]
theorem QuietFrame.mtime {s t : State} (h : QuietFrame s t) : t.mtime = s.mtime := by rw [h]
theorem QuietFrame.mil {s t : State} (h : QuietFrame s t) : t.mil = s.mil := by rw [h]
theorem QuietFrame.mcycleBase {s t : State} (h : QuietFrame s t) : t.mcycleBase = s.mcycleBase := by rw [h]
theorem QuietFrame.boundary {s t : State} (h : QuietFrame s t) : t.boundary = s.boundary := by rw [h]

theorem quietFrame_retire_writeReg {s u : State} (h : QuietFrame s u) (rd : Reg) (v next : Word) :
    QuietFrame s (retire (writeReg u rd v) next) := by
  rw [retire_writeReg_eq, QuietFrame, h]

theorem quietFrame_refl (s : State) : QuietFrame s s := rfl

theorem quietFrame_enterDebug (s : State) : QuietFrame s (enterDebug s) := rfl

theorem quietFrame_takeException {s t : State} {c : ExceptionCause} {v : Word} (h : takeException s c v = .next t) :
    QuietFrame s t := by
  obtain ⟨-, rfl⟩ := takeException_next.1 h
  rfl

theorem quietFrame_closeClicWindow (s : State) (a : Word) : QuietFrame s (closeClicWindow s a) := by
  unfold closeClicWindow
  split <;> rfl

theorem quietFrame_afterWfi (s : State) : QuietFrame s (afterWfi s) := by
  obtain ⟨-, h⟩ | ⟨-, h⟩ := afterWfi_cases s <;> rw [h] <;> rfl

theorem quietFrame_loadTo {s t : State} {rd : Reg} {a : Word} {w : Size} {ext : Word → Word} {len : Word}
    (h : loadTo s rd a w ext len = .next t) : QuietFrame s t := by
  obtain he | ⟨c, v, -, h⟩ | ⟨-, rfl⟩ := finish_next h
  · obtain ⟨v, -, hu⟩ := bind_eq_ok he
    cases hu
    exact quietFrame_retire_writeReg (quietFrame_closeClicWindow s a) _ _ _
  · exact quietFrame_takeException h
  · exact quietFrame_enterDebug s

theorem quietFrame_takeBreakpoint {s t : State} (h : takeBreakpoint s = .next t) : QuietFrame s t := by
  unfold takeBreakpoint at h
  split at h
  · cases h; exact quietFrame_enterDebug s
  · exact quietFrame_takeException h

theorem quietFrame_execDret {s t : State} (h : execDret s = .next t) : QuietFrame s t := by
  unfold execDret at h
  split at h
  · cases h; rfl
  · exact quietFrame_takeException h

theorem execMret_next {s t : State} (h : execMret s = .next t) : t = retire (trapReturn s) s.mepc := by
  unfold execMret at h
  split at h
  · cases h
  · split at h <;> cases h
    rfl

/-- Nothing differs but the CSRs that a CSR instruction can write, the image of the levels read among them. -/
def CsrFrame (s t : State) : Prop :=
  t = { s with
    mstatusMie := t.mstatusMie, mstatusMpie := t.mstatusMpie, mieMsie := t.mieMsie, mieMtie := t.mieMtie,
    mieMeie := t.mieMeie, mtvec := t.mtvec, mtvt := t.mtvt, mscratch := t.mscratch, mepc := t.mepc,
    mcauseInterrupt := t.mcauseInterrupt, mcauseCode := t.mcauseCode, mcauseMpil := t.mcauseMpil,
    mpilSeen := t.mpilSeen, mcauseMinhv := t.mcauseMinhv, mtval := t.mtval, mcycleBase := t.mcycleBase,
    minstret := t.minstret, tselect := t.tselect, triggers := t.triggers, dpc := t.dpc, dscratch := t.dscratch }

theorem CsrFrame.debugMode {s t : State} (h : CsrFrame s t) : t.debugMode = s.debugMode := by rw [h]
theorem CsrFrame.dcsrEbreakm {s t : State} (h : CsrFrame s t) : t.dcsrEbreakm = s.dcsrEbreakm := by rw [h]
theorem CsrFrame.dcsrStep {s t : State} (h : CsrFrame s t) : t.dcsrStep = s.dcsrStep := by rw [h]
theorem CsrFrame.x {s t : State} (h : CsrFrame s t) : t.x = s.x := by rw [h]
theorem CsrFrame.mem {s t : State} (h : CsrFrame s t) : t.mem = s.mem := by rw [h]
theorem CsrFrame.unfenced {s t : State} (h : CsrFrame s t) : t.unfenced = s.unfenced := by rw [h]
theorem CsrFrame.clic {s t : State} (h : CsrFrame s t) : t.clic = s.clic := by rw [h]
theorem CsrFrame.mtime {s t : State} (h : CsrFrame s t) : t.mtime = s.mtime := by rw [h]
theorem CsrFrame.mil {s t : State} (h : CsrFrame s t) : t.mil = s.mil := by rw [h]
theorem CsrFrame.boundary {s t : State} (h : CsrFrame s t) : t.boundary = s.boundary := by rw [h]

/-- What a CSR write can change, said once: only writes of `tdata1` and `tdata2` reach the triggers, and only those of
`mcycle` and `mcycleh` where the cycle count starts from. -/
theorem csrWrite_changes {s t : State} {v : Word} {c : Csr} (h : csrWrite s v c = .ok t) :
    CsrFrame s t ∧ (isTdata c = false → t.triggers = s.triggers) ∧
      (c ≠ .mcycle → c ≠ .mcycleh → t.mcycleBase = s.mcycleBase) := by
  cases c <;> simp only [csrWrite] at h
  case mie => split at h <;> cases h <;> exact ⟨rfl, fun _ => rfl, fun _ _ => rfl⟩
  case mtvec =>
    unfold mtvecWrite at h
    split_ifs at h <;> cases h <;> exact ⟨rfl, fun _ => rfl, fun _ _ => rfl⟩
  case mcause =>
    unfold mcauseWrite at h
    split_ifs at h
    · split at h <;> cases h
      exact ⟨rfl, fun _ => rfl, fun _ _ => rfl⟩
    · cases h; exact ⟨rfl, fun _ => rfl, fun _ _ => rfl⟩
  case tdata1 =>
    unfold tdata1Write at h
    split_ifs at h
    cases h
    exact ⟨rfl, nofun, fun _ _ => rfl⟩
  case tdata2 => cases h; exact ⟨rfl, nofun, fun _ _ => rfl⟩
  case mcycle => cases h; exact ⟨rfl, fun _ => rfl, fun hne => absurd rfl hne⟩
  case mcycleh => cases h; exact ⟨rfl, fun _ => rfl, fun _ hne => absurd rfl hne⟩
  all_goals cases h <;> exact ⟨rfl, fun _ => rfl, fun _ _ => rfl⟩

theorem csrFrame_csrWrite {s t : State} {v : Word} {c : Csr} (h : csrWrite s v c = .ok t) : CsrFrame s t :=
  (csrWrite_changes h).1

theorem csrFrame_csrReadPart {s t : State} {j : CsrAccess} {c : Csr} (h : csrReadPart s j c = .ok t) :
    CsrFrame s t := by
  obtain rfl | ⟨-, -, -, -, rfl⟩ := csrReadPart_ok h <;> rfl

theorem csrFrame_csrUpdate {s t : State} {j : CsrAccess} {c : Csr} (h : csrUpdate s j c = .ok t) : CsrFrame s t := by
  obtain ⟨u, hu, ⟨-, rfl⟩ | ⟨-, ht⟩⟩ := csrUpdate_ok h
  · exact csrFrame_csrReadPart hu
  · have hwrite := csrFrame_csrWrite ht
    rw [CsrFrame] at hwrite ⊢
    rw [hwrite, csrFrame_csrReadPart hu]

/-- What an instruction that answers a next state can leave. -/
inductive ExecLeaves (s : State) (i : Instr) (t : State) : Prop where
  | quiet (h : QuietFrame s t)
  | stored (a : Word) (w : Size) (v len : Word) (u : State) (hi : StoresTo s i a w) (hu : memWrite s a w v = .ok u)
      (ht : t = retire u (s.pc + len))
  | refetches (ht : t = retire { s with unfenced := [] } (s.pc + 4#32))
  | csr (j : CsrAccess) (c : Csr) (u : State) (hi : AccessesCsr i j.csr j.writes)
      (hc : csrCheck s j.csr j.writes = .access c) (hu : csrUpdate s j c = .ok u)
      (ht : t = csrRetire (writeReg u j.rd (csrRead s c)) j c (s.pc + 4#32))
  | mnxti (j : CsrAccess) (hi : AccessesCsr i j.csr j.writes) (hc : csrCheck s j.csr j.writes = .access .mnxti)
      (ht : mnxtiAccess s j = .next t)
  | returns (hi : i = .mret) (ht : t = retire (trapReturn s) s.mepc)

theorem exec_leaves {i : Instr} {s t : State} (h : exec i s = .next t) : ExecLeaves s i t := by
  obtain ⟨o, he, h⟩ := exec_next_ends h
  cases he with
  | computes rd v len => cases h; exact .quiet (quietFrame_retire_writeReg (quietFrame_refl s) _ _ _)
  | jumps rd target len => cases h; exact .quiet (quietFrame_retire_writeReg (quietFrame_refl s) _ _ _)
  | branches | goesOn => cases h; exact .quiet rfl
  | loads => exact .quiet (quietFrame_loadTo h)
  | stores a w v len hi =>
    obtain he | ⟨c, v, -, h⟩ | ⟨-, rfl⟩ := finish_next h
    · obtain ⟨u, hu, ht⟩ := bind_eq_ok he
      cases ht
      exact .stored a w v len u hi hu rfl
    · exact .quiet (quietFrame_takeException h)
    · exact .quiet (quietFrame_enterDebug s)
  | refetches => cases h; exact .refetches rfl
  | raises => exact .quiet (quietFrame_takeException h)
  | breaks => exact .quiet (quietFrame_takeBreakpoint h)
  | accesses j hi =>
    obtain h | ⟨hc, ht⟩ | ⟨c, u, -, hc, hu, ht⟩ := csrInstruction_next h
    · exact .quiet (quietFrame_takeException h)
    · exact .mnxti j hi hc ht
    · exact .csr j c u hi hc hu ht
  | returns hi => exact .returns hi (execMret_next h)
  | waits => cases h; exact .quiet (quietFrame_afterWfi s)
  | leavesDebug => exact .quiet (quietFrame_execDret h)

/-! ## What a step can do -/

/-- What can follow the boundary after which the machine is in `b`. -/
inductive StepLeaves (b u : State) : Prop where
  | stalled (hu : u = afterWfi b)
  | woken (id : Nat) (hd : interruptDecision (afterWfi b) = .take id) (hu : takeInterrupt (afterWfi b) id = .next u)
  | interrupted (id : Nat) (hd : interruptDecision b = .take id) (hu : takeInterrupt b id = .next u)
  | executed (e : Encoded) (i : Instr) (hf : fetch b = .ok e) (hi : decode e = .ok i) (hu : exec i b = .next u)
  | excepted (c : ExceptionCause) (tval : Word) (hu : takeException b c tval = .next u)
  | debugged (hf : fetch b = .debug) (hu : u = enterDebug b)

theorem fetchAndRun_leaves {b u : State} (h : fetchAndRun b = .next u) : StepLeaves b u := by
  unfold fetchAndRun at h
  cases hf : fetch b with
  | ok e =>
    simp only [hf, runEncoded] at h
    cases hi : decode e with
    | ok i => rw [hi] at h; exact .executed e i hf hi h
    | error err => rw [hi] at h; exact .excepted _ _ h
  | raise c tval => rw [hf] at h; exact .excepted c tval h
  | debug => rw [hf] at h; cases h; exact .debugged hf rfl
  | refuse r => rw [hf] at h; cases h

theorem afterBoundary_leaves {b u : State} (h : afterBoundary b = .next u) : StepLeaves b u := by
  unfold afterBoundary at h
  cases hd : interruptDecision b with
  | noInterrupt => rw [hd] at h; exact fetchAndRun_leaves h
  | take id => rw [hd] at h; exact .interrupted id hd h
  | refuse r => rw [hd] at h; cases h

theorem resumeWfi_leaves {b u : State} (h : resumeWfi b = .next u) : StepLeaves b u := by
  obtain hu | ⟨id, hd, hu⟩ := resumeWfi_next h
  · exact .stalled hu
  · exact .woken id hd hu

/-- A step that answers a next state: outside debug mode, at an even pc, the boundary, what follows it, and under single
step the entry into debug mode. -/
theorem step_next {s t : State} (h : step s = .next t) : s.debugMode = false ∧ s.pc.getLsbD 0 = false ∧
    ∃ u, StepLeaves (passBoundary s) u ∧ (t = u ∨ (s.dcsrStep = true ∧ t = enterDebug u)) := by
  have ends {o} (hleaves : ∀ u, o = .next u → StepLeaves (passBoundary s) u) (hs : singleStep s o = .next t) :
      ∃ u, StepLeaves (passBoundary s) u ∧ (t = u ∨ (s.dcsrStep = true ∧ t = enterDebug u)) := by
    obtain ⟨u, hu, ht | ⟨hstep, -, ht⟩⟩ := singleStep_next hs
    · exact ⟨u, hleaves u hu, .inl ht⟩
    · exact ⟨u, hleaves u hu, .inr ⟨hstep, ht⟩⟩
  unfold step at h
  split at h
  · cases h
  · rename_i hdebug
    split at h
    · cases h
    · rename_i hpc
      refine ⟨Bool.eq_false_of_not_eq_true hdebug, Bool.eq_false_of_not_eq_true hpc, ?_⟩
      split at h
      · exact ends (fun _ => resumeWfi_leaves) h
      · exact ends (fun _ => afterBoundary_leaves) h

end Sys2Proof.Machine
end

section
/-! SUPPORT. The invariant of the machine: it holds after reset and every step keeps it (spec/10_state.md R31, R37, R72,
R75; spec/20_memory.md R144; spec/61_clic.md R509; spec/62_debug.md R556). -/

namespace Sys2Proof.Machine

theorem inv_execMret {s t : State} (h : Inv s) (ht : execMret s = .next t) : Inv t := by
  rw [execMret_next ht]
  refine inv_retire ?_ _ h.mepc_even
  refine { h with mil_legal := ?_ }
  rw [trapReturn_mil]
  split
  · exact h.mpil_legal
  · exact h.mil_legal

theorem inv_execDret {s t : State} (h : Inv s) (ht : execDret s = .next t) : Inv t := by
  unfold execDret at ht
  split at ht
  · cases ht; exact { h with pc_even := even_clearBit0 s.dpc }
  · exact inv_takeException h ht

/-- A well-formed instruction keeps the invariant: its offsets are even. -/
theorem inv_exec {i : Instr} {s t : State} (h : Inv s) (hwf : i.wf = true) (ht : exec i s = .next t) : Inv t := by
  obtain ⟨o, he, ht⟩ := exec_next_ends ht
  cases he with
  | computes _ _ _ hlen => exact inv_writeAndRetire h hlen ht
  | jumps _ _ _ heven => exact inv_jumpAndLink h (heven hwf h.pc_even) ht
  | branches _ _ _ heven hlen => exact inv_branch h (heven hwf) hlen ht
  | loads _ _ _ _ _ _ hlen => exact inv_loadTo h hlen ht
  | stores _ _ _ _ _ hlen => exact inv_storeFrom h hlen ht
  | goesOn _ hlen => cases ht; exact inv_retire h _ (even_add h.pc_even hlen)
  | refetches =>
    cases ht
    exact inv_retire (s := { s with unfenced := [] }) { h with x0 := h.x0 } _ (even_add h.pc_even rfl)
  | raises => exact inv_takeException h ht
  | breaks => exact inv_takeBreakpoint h ht
  | accesses => exact inv_csrInstruction h ht
  | returns => exact inv_execMret h ht
  | waits => cases ht; exact inv_afterWfi h
  | leavesDebug => exact inv_execDret h ht

theorem inv_passBoundary {s : State} (h : Inv s) : Inv (passBoundary s) := by
  unfold passBoundary
  split <;> exact { h with x0 := h.x0 }

theorem inv_stepLeaves {b u : State} (h : Inv b) (hu : StepLeaves b u) : Inv u := by
  cases hu with
  | stalled hu => rw [hu]; exact inv_afterWfi h
  | woken id _ hu => exact inv_takeInterrupt (inv_afterWfi h) hu
  | interrupted id _ hu => exact inv_takeInterrupt h hu
  | executed e i _ hi hu => exact inv_exec h (encodeDecode e i hi).1 hu
  | excepted c tval hu => exact inv_takeException h hu
  | debugged _ hu => rw [hu]; exact inv_enterDebug h

/-- Settles O59: the boundary keeps the invariant, and so does each thing that can follow it, for what is decoded is
well formed. -/
theorem stepKeepsInv : Obligations.StepKeepsInv := by
  intro s t h ht
  obtain ⟨-, -, u, hu, rfl | ⟨-, rfl⟩⟩ := step_next ht
  · exact inv_stepLeaves (inv_passBoundary h) hu
  · exact inv_enterDebug (inv_stepLeaves (inv_passBoundary h) hu)

theorem inv_resetWith {p : Params} (platform : List PortRegion) {mem : List Host.Cell} (inputs : List BoundaryInput)
    (hpc : p.resetVector.getLsbD 0 = false) (hwf : Memory.wf mem)
    (hport : ∀ c ∈ mem, 0x20000000 ≤ c.1 ∧ c.1 < 0x40000000) : Inv (State.resetWith p platform mem inputs) where
  mem_wf := hwf
  mem_port := hport
  x0 := rfl
  pc_even := hpc
  mepc_even := BitVec.getLsbD_zero
  dpc_even := BitVec.getLsbD_zero
  minhv := rfl
  mil_legal := rfl
  mpil_legal := rfl
  clic_reserved := fun id _ _ => ⟨BitVec.getLsbD_zero, ClicRegs.cfgOf_reset id⟩
  clicOld_reserved := nofun
  last_unchained := rfl

/-- Settles O58: field by field, for every reset vector and memory, the recommended ones among them. -/
theorem resetInv : Obligations.ResetInv :=
  ⟨inv_resetWith [] [] rfl Memory.reset_wf nofun, fun _ platform _ inputs hpc hwf hport =>
    inv_resetWith platform inputs hpc hwf hport⟩

end Sys2Proof.Machine
end

section
/-! SUPPORT. A program outside debug mode neither enters it nor arms a trigger for it (spec/62_debug.md R552, R557, R558,
R572; spec/60_exceptions.md R480). -/

namespace Sys2Proof.Machine

/-- The rule depends on the mode, the two bits of `dcsr` and the triggers only. -/
theorem NoDebugger.congr {s t : State} (h : NoDebugger s) (hmode : t.debugMode = s.debugMode)
    (hebreakm : t.dcsrEbreakm = s.dcsrEbreakm) (hstep : t.dcsrStep = s.dcsrStep) (htrig : t.triggers = s.triggers) :
    NoDebugger t :=
  ⟨hmode.trans h.running, hebreakm.trans h.ebreakm, hstep.trans h.step, by rw [htrig]; exact h.triggers⟩

theorem noDebugger_retire_writeReg {s : State} (h : NoDebugger s) (rd : Reg) (v next : Word) :
    NoDebugger (retire (writeReg s rd v) next) := h.congr (by simp) (by simp) (by simp) (by simp)

theorem noDebugger_takeException {s t : State} {c : ExceptionCause} {v : Word} (h : NoDebugger s)
    (ht : takeException s c v = .next t) : NoDebugger t := by
  obtain ⟨-, rfl⟩ := takeException_next.1 ht
  exact h.congr rfl rfl rfl rfl

theorem noDebugger_takeInterrupt {s t : State} {id : Nat} (h : NoDebugger s) (ht : takeInterrupt s id = .next t) :
    NoDebugger t := by
  obtain ⟨-, ⟨-, rfl⟩ | ⟨-, -, rfl⟩ | ⟨-, -, a, -, rfl⟩⟩ := takeInterrupt_next ht <;> exact h.congr rfl rfl rfl rfl

/-- No trigger that fires enters debug mode, for none is set to. -/
theorem NoDebugger.triggerCheck {s : State} (h : NoDebugger s) (k : AccessKind) (a : Word) (n : Nat) :
    triggerCheck s k a n ≠ .debug := by
  intro hdebug
  obtain ⟨t, ht, haction⟩ := List.any_eq_true.1 (triggerCheck_debug hdebug)
  obtain ⟨i, hi, rfl⟩ := List.mem_iff_getElem.1 (firing_subset _ _ _ t ht)
  have := (h.triggers ⟨i, by simpa using hi⟩).2
  simp_all [Vector.get]

theorem bind_ne_debug {α β : Type} {m : Access α} {f : α → Access β} (hm : m ≠ .debug) (hf : ∀ v, f v ≠ .debug) :
    m.bind f ≠ .debug := by
  cases m with
  | ok v => exact hf v
  | raise | refuse => nofun
  | debug => exact absurd rfl hm

theorem regionRead_ne_debug (s : State) (a : Word) (w : Size) : regionRead s a w ≠ .debug := by
  unfold regionRead
  repeat' split
  all_goals nofun

theorem regionWrite_ne_debug (s : State) (a : Word) (w : Size) (v : Word) : regionWrite s a w v ≠ .debug := by
  unfold regionWrite
  repeat' split
  all_goals nofun

theorem fetchParcel_ne_debug (s : State) (a : Word) : fetchParcel s a ≠ .debug := by
  unfold fetchParcel
  repeat' split
  all_goals nofun

theorem NoDebugger.memRead {s : State} (h : NoDebugger s) (a : Word) (w : Size) : memRead s a w ≠ .debug :=
  bind_ne_debug (h.triggerCheck _ _ _) fun _ => by
    split
    · exact regionRead_ne_debug s a w
    · nofun

theorem NoDebugger.memWrite {s : State} (h : NoDebugger s) (a : Word) (w : Size) (v : Word) :
    memWrite s a w v ≠ .debug :=
  bind_ne_debug (h.triggerCheck _ _ _) fun _ => by
    split
    · exact regionWrite_ne_debug s a w v
    · nofun

theorem NoDebugger.fetch {s : State} (h : NoDebugger s) : fetch s ≠ .debug :=
  bind_ne_debug (h.triggerCheck _ _ _) fun _ => bind_ne_debug (fetchParcel_ne_debug s _) fun p => by
    unfold fetchRest
    split
    · exact bind_ne_debug (h.triggerCheck _ _ _) fun _ => bind_ne_debug (fetchParcel_ne_debug s _) fun _ => nofun
    · nofun

/-- An instruction whose accesses do not enter debug mode. -/
theorem noDebugger_finish {s t : State} {m : Access State} (h : NoDebugger s) (hm : m ≠ .debug)
    (hok : ∀ u, m = .ok u → NoDebugger u) (ht : finish s m = .next t) : NoDebugger t := by
  obtain he | ⟨c, v, -, ht⟩ | ⟨hd, -⟩ := finish_next ht
  · exact hok t he
  · exact noDebugger_takeException h ht
  · exact absurd hd hm

theorem noDebugger_loadTo {s t : State} {rd : Reg} {a : Word} {w : Size} {ext : Word → Word} {len : Word}
    (h : NoDebugger s) (ht : loadTo s rd a w ext len = .next t) : NoDebugger t := by
  refine noDebugger_finish h (bind_ne_debug (h.memRead a w) fun _ => by nofun) (fun u hu => ?_) ht
  obtain ⟨v, -, hu⟩ := bind_eq_ok hu
  cases hu
  exact noDebugger_retire_writeReg (h.congr (by simp) (by simp) (by simp) (by simp)) _ _ _

theorem noDebugger_storeFrom {s t : State} {a : Word} {w : Size} {v len : Word} (h : NoDebugger s)
    (ht : storeFrom s a w v len = .next t) : NoDebugger t := by
  refine noDebugger_finish h (bind_ne_debug (h.memWrite a w v) fun _ => by nofun) (fun u hu => ?_) ht
  obtain ⟨p, hp, hu⟩ := bind_eq_ok hu
  cases hu
  obtain ⟨-, -, hr⟩ := memWrite_ok hp
  obtain ⟨-, -, rfl⟩ | ⟨-, q, hq, rfl⟩ := regionWrite_ok hr
  · exact h.congr rfl rfl rfl rfl
  · obtain ⟨c, m, rfl⟩ := clicWrite_frame hq
    exact h.congr (by simp) (by simp) (by simp) (by simp)

/-- A replaced trigger that is as harmless as the others. -/
theorem noDebugger_setTrigger {s : State} {d : Trigger} (h : NoDebugger s)
    (hd : d.dmode = false ∧ d.actionDebug = false) : NoDebugger (setTrigger s d) := by
  refine ⟨h.running, h.ebreakm, h.step, fun i => ?_⟩
  have hi := h.triggers i
  simp only [setTrigger, Vector.get_eq_getElem, Vector.getElem_set] at hi ⊢
  split
  · exact hd
  · exact hi

theorem noDebugger_csrWrite {s t : State} {v : Word} {c : Csr} (h : NoDebugger s) (ht : csrWrite s v c = .ok t) :
    NoDebugger t := by
  obtain ⟨hframe, htrig, -⟩ := csrWrite_changes ht
  cases hc : isTdata c with
  | false => exact h.congr hframe.debugMode hframe.dcsrEbreakm hframe.dcsrStep (htrig hc)
  | true =>
    simp only [isTdata, Bool.or_eq_true, beq_iff_eq] at hc
    rcases hc with (rfl | rfl) | rfl
    · simp only [csrWrite, tdata1Write, h.running] at ht
      split_ifs at ht with haction
      cases ht
      exact noDebugger_setTrigger h (by simp_all [mcontrolWrite])
    · cases ht; exact noDebugger_setTrigger h (h.triggers _)
    · cases ht; exact h

theorem noDebugger_csrInstruction {s t : State} {j : CsrAccess} (h : NoDebugger s)
    (ht : csrInstruction s j = .next t) : NoDebugger t := by
  obtain ht | ⟨-, ht⟩ | ⟨c, u, -, -, hu, rfl⟩ := csrInstruction_next ht
  · exact noDebugger_takeException h ht
  · obtain ⟨-, -, ⟨-, rfl⟩ | ⟨w, -, -, rfl⟩⟩ := mnxtiAccess_next ht
    · refine noDebugger_retire_writeReg ?_ _ _ _
      split
      · exact h.congr rfl rfl rfl rfl
      · exact h
    · refine noDebugger_retire_writeReg ?_ _ _ _
      split
      · exact h.congr rfl rfl rfl rfl
      · exact h
  · have hu : NoDebugger u := by
      obtain ⟨v, hv, hwrite⟩ := csrUpdate_ok hu
      have hread : NoDebugger v := by
        obtain rfl | ⟨-, -, -, -, rfl⟩ := csrReadPart_ok hv
        · exact h
        · exact h.congr rfl rfl rfl rfl
      obtain ⟨-, rfl⟩ | ⟨-, hwrite⟩ := hwrite
      · exact hread
      · exact noDebugger_csrWrite hread hwrite
    unfold csrRetire
    split
    · exact hu.congr (by simp) (by simp) (by simp) (by simp)
    · exact noDebugger_retire_writeReg hu _ _ _

theorem noDebugger_afterWfi {s : State} (h : NoDebugger s) : NoDebugger (afterWfi s) := by
  obtain ⟨-, he⟩ | ⟨-, he⟩ := afterWfi_cases s <;> rw [he] <;> exact h.congr rfl rfl rfl rfl

theorem noDebugger_exec {i : Instr} {s t : State} (h : NoDebugger s) (ht : exec i s = .next t) : NoDebugger t := by
  obtain ⟨o, he, ht⟩ := exec_next_ends ht
  cases he with
  | computes | jumps => cases ht; exact noDebugger_retire_writeReg h _ _ _
  | branches | goesOn | refetches => cases ht; exact h.congr rfl rfl rfl rfl
  | loads => exact noDebugger_loadTo h ht
  | stores => exact noDebugger_storeFrom h ht
  | raises => exact noDebugger_takeException h ht
  | breaks =>
    rw [takeBreakpoint, h.ebreakm] at ht
    exact noDebugger_takeException h ht
  | accesses => exact noDebugger_csrInstruction h ht
  | returns => rw [execMret_next ht]; exact h.congr rfl rfl rfl rfl
  | waits => cases ht; exact noDebugger_afterWfi h
  | leavesDebug =>
    rw [execDret, h.running] at ht
    exact noDebugger_takeException h ht

theorem noDebugger_stepLeaves {b u : State} (h : NoDebugger b) (hu : StepLeaves b u) : NoDebugger u := by
  cases hu with
  | stalled hu => rw [hu]; exact noDebugger_afterWfi h
  | woken id _ hu => exact noDebugger_takeInterrupt (noDebugger_afterWfi h) hu
  | interrupted id _ hu => exact noDebugger_takeInterrupt h hu
  | executed e i _ _ hu => exact noDebugger_exec h hu
  | excepted c tval hu => exact noDebugger_takeException h hu
  | debugged hf => exact absurd hf h.fetch

/-- Settles O60: neither the boundary nor what can follow it enters debug mode or arms a trigger for it. -/
theorem stepKeepsNoDebugger : Obligations.StepKeepsNoDebugger := by
  intro s t h ht
  obtain ⟨-, -, u, hu, rfl | ⟨hstep, -⟩⟩ := step_next ht
  · exact noDebugger_stepLeaves (h.congr (by simp) (by simp) (by simp) (by simp)) hu
  · exact absurd (hstep.symm.trans h.step) (by decide)

end Sys2Proof.Machine
end

section
/-! SUPPORT. What an instruction leaves as it was: memory and the CLIC registers but by a store, the interrupt level but
by MRET and `mnxti` (spec/20_memory.md R135, R151; spec/10_state.md R85; spec/60_exceptions.md R446, R470, R475). -/

namespace Sys2Proof.Machine

/-- A store leaves everything but memory, the CLIC registers, `mtime` and the records kept of their older values. -/
theorem memWrite_frame {s u : State} {a : Word} {w : Size} {v : Word} (h : memWrite s a w v = .ok u) :
    u = { s with mem := u.mem, unfenced := u.unfenced, clic := u.clic, clicOld := u.clicOld, mtime := u.mtime } := by
  obtain ⟨-, -, hr⟩ := memWrite_ok h
  obtain ⟨-, -, rfl⟩ | ⟨-, q, hq, rfl⟩ := regionWrite_ok hr
  · rfl
  · obtain ⟨c, m, rfl⟩ := clicWrite_frame hq
    rw [openClicWindow_eq]

/-- What an access to `mnxti` leaves differs in a register, the pc, the count, the enable bits, and by a commit in the
level and the cause. -/
theorem mnxtiAccess_frame {s t : State} {j : CsrAccess} (h : mnxtiAccess s j = .next t) :
    t = { s with
      x := t.x, pc := t.pc, minstret := t.minstret, mstatusMie := t.mstatusMie, mstatusMpie := t.mstatusMpie,
      mil := t.mil, mcauseCode := t.mcauseCode, mcauseInterrupt := t.mcauseInterrupt } := by
  obtain ⟨-, -, ⟨-, rfl⟩ | ⟨w, -, -, rfl⟩⟩ := mnxtiAccess_next h <;> rw [retire_writeReg_eq] <;> split <;> rfl

/-- Of the state after its update, the end of a CSR instruction changes a register, the pc and the count. -/
theorem csrRetire_writeReg_eq (u : State) (rd : Reg) (v : Word) (j : CsrAccess) (c : Csr) (next : Word) :
    ∃ n, csrRetire (writeReg u rd v) j c next =
      { u with x := (writeReg u rd v).x, pc := next, minstret := n } := by
  unfold csrRetire
  split
  · refine ⟨u.minstret, ?_⟩
    unfold writeReg
    split <;> rfl
  · exact ⟨_, retire_writeReg_eq u rd v next⟩

/-- Settles O12: of the six things that an instruction can leave, only a store writes memory and the CLIC registers. -/
theorem onlyStoresWriteMemory : Obligations.OnlyStoresWriteMemory := by
  intro i s t hno h
  cases exec_leaves h with
  | quiet h => exact ⟨SameMemory.rfl' _ _ h.mem, h.clic, h.mtime, .inl h.unfenced⟩
  | stored a w v len u hi => exact absurd hi (hno a w)
  | refetches ht => rw [ht]; exact ⟨SameMemory.rfl' _ _ rfl, rfl, rfl, .inr rfl⟩
  | csr j c u _ _ hu ht =>
    have hframe := csrFrame_csrUpdate hu
    obtain ⟨n, hn⟩ := csrRetire_writeReg_eq u j.rd (csrRead s c) j c (s.pc + 4#32)
    rw [ht, hn]
    exact ⟨SameMemory.rfl' _ _ hframe.mem, hframe.clic, hframe.mtime, .inl hframe.unfenced⟩
  | mnxti j _ _ ht => rw [mnxtiAccess_frame ht]; exact ⟨SameMemory.rfl' _ _ rfl, rfl, rfl, .inl rfl⟩
  | returns _ ht => rw [ht]; exact ⟨SameMemory.rfl' _ _ rfl, rfl, rfl, .inl rfl⟩

/-! ## The interrupt level (10 R85) -/

theorem csrOf_of_csrCheck {s : State} {a : BitVec 12} {writes : Bool} {c : Csr} (h : csrCheck s a writes = .access c) :
    csrOf a = some c := by
  unfold csrCheck at h
  split at h
  · cases h
  · rename_i hc
    split_ifs at h
    cases h
    exact hc

/-- Each of the three stands at one address. -/
theorem address_of_csrOf {a : BitVec 12} :
    (csrOf a = some .mnxti → a = 0x345#12) ∧ (csrOf a = some .mcycle → a = 0xB00#12) ∧
      (csrOf a = some .mcycleh → a = 0xB80#12) := by
  refine ⟨fun h => ?_, fun h => ?_, fun h => ?_⟩ <;>
    simp only [csrOf, ite_eq_iff, Option.some.injEq, reduceCtorEq, and_false, and_true, false_or, or_false] at h <;>
    simp only [h]

/-- An access to `mnxti` that changes the level is a write, and the level is the winner's. -/
theorem mnxtiAccess_mil {s t : State} {j : CsrAccess} (h : mnxtiAccess s j = .next t) (hmil : t.mil ≠ s.mil) :
    clicMode s = true ∧ j.writes = true ∧ ∃ w, winner s = some w ∧ t.mil = levelSeen s w := by
  obtain ⟨-, hmode, ⟨-, rfl⟩ | ⟨w, -, hw, rfl⟩⟩ := mnxtiAccess_next h
  · refine absurd ?_ hmil
    rw [retire_mil, writeReg_mil]
    split <;> rfl
  · rw [retire_mil, writeReg_mil] at hmil ⊢
    split at hmil
    · rename_i hwrites
      exact ⟨hmode, hwrites, w, hw, by rw [if_pos hwrites]; rfl⟩
    · exact absurd rfl hmil

theorem exec_mil {i : Instr} {s t : State} (h : exec i s = .next t) (hmil : t.mil ≠ s.mil) :
    clicMode s = true ∧ ((i = .mret ∧ t.mil = s.mcauseMpil) ∨ ∃ w, AccessesCsr i 0x345#12 true ∧ winner s = some w ∧
      t.mil = levelSeen s w) := by
  cases exec_leaves h with
  | quiet h => exact absurd h.mil hmil
  | stored a w v len u _ hu ht => rw [ht, memWrite_frame hu] at hmil; exact absurd rfl hmil
  | refetches ht => rw [ht] at hmil; exact absurd rfl hmil
  | csr j c u _ _ hu ht =>
    obtain ⟨n, hn⟩ := csrRetire_writeReg_eq u j.rd (csrRead s c) j c (s.pc + 4#32)
    rw [ht, hn] at hmil
    exact absurd (csrFrame_csrUpdate hu).mil hmil
  | mnxti j hi hc ht =>
    obtain ⟨hmode, hwrites, w, hw, ht⟩ := mnxtiAccess_mil ht hmil
    rw [hwrites, address_of_csrOf.1 (csrOf_of_csrCheck hc)] at hi
    exact ⟨hmode, .inr ⟨w, hi, hw, ht⟩⟩
  | returns hi ht =>
    rw [ht, retire_mil, trapReturn_mil] at hmil ⊢
    split at hmil
    · rename_i hmode; exact ⟨hmode, .inl ⟨hi, if_pos hmode⟩⟩
    · exact absurd rfl hmil

theorem toNat_append_zero {n : Nat} (v : BitVec n) (m : Nat) : (v ++ 0#m).toNat = v.toNat * 2 ^ m := by
  rw [BitVec.toNat_append, Nat.shiftLeft_eq]
  exact Nat.or_zero _

/-- Settles O37: of the six things that an instruction can leave, only MRET and `mnxti` set the level. -/
theorem levelChangesOnlyBy : Obligations.LevelChangesOnlyBy := by
  refine ⟨rfl, fun s rd => ?read, fun i s t h hmil => exec_mil h hmil, fun s t id h hmil => ?interrupt,
    fun s t c tval h => (quietFrame_takeException h).mil⟩
  case read =>
    rw [exec_csrrs]
    exact csrInstruction_computed plainAt_mintstatus
      (csrUpdate_of_ignoresWrites s plainAt_mintstatus (.inr (.inl rfl))) (toNat_append_zero s.mil 24)
  case interrupt =>
    have hlevel : t.mil = if clicMode s then levelSeen s id else s.mil := by
      obtain ⟨-, ⟨-, rfl⟩ | ⟨-, -, rfl⟩ | ⟨-, -, a, -, rfl⟩⟩ := takeInterrupt_next h <;> rfl
    rw [hlevel] at hmil ⊢
    split at hmil
    · rename_i hmode; exact ⟨hmode, if_pos hmode⟩
    · exact absurd rfl hmil

/-! ## Where the cycle count starts from, and the number of boundaries (10 R92) -/

theorem csrUpdate_mcycleBase {s u : State} {j : CsrAccess} {c : Csr} (h : csrUpdate s j c = .ok u)
    (hne : u.mcycleBase ≠ s.mcycleBase) : j.writes = true ∧ (c = .mcycle ∨ c = .mcycleh) := by
  obtain ⟨v, hv, hwrite⟩ := csrUpdate_ok h
  have hread : v.mcycleBase = s.mcycleBase := by obtain rfl | ⟨-, -, -, -, rfl⟩ := csrReadPart_ok hv <;> rfl
  rw [← hread] at hne
  obtain ⟨-, rfl⟩ | ⟨hw, hwrite⟩ := hwrite
  · exact absurd rfl hne
  · refine ⟨hw, ?_⟩
    by_contra hother
    rw [not_or] at hother
    exact hne ((csrWrite_changes hwrite).2.2 hother.1 hother.2)

/-- Only a CSR instruction that writes `mcycle` or `mcycleh` changes where the cycle count starts from. -/
theorem exec_mcycleBase {i : Instr} {s t : State} (h : exec i s = .next t) (hne : t.mcycleBase ≠ s.mcycleBase) :
    AccessesCsr i 0xB00#12 true ∨ AccessesCsr i 0xB80#12 true := by
  cases exec_leaves h with
  | quiet h => exact absurd h.mcycleBase hne
  | stored a w v len u _ hu ht => rw [ht, memWrite_frame hu] at hne; exact absurd rfl hne
  | refetches ht => rw [ht] at hne; exact absurd rfl hne
  | csr j c u hi hc hu ht =>
    obtain ⟨n, hn⟩ := csrRetire_writeReg_eq u j.rd (csrRead s c) j c (s.pc + 4#32)
    rw [ht, hn] at hne
    obtain ⟨hwrites, hc'⟩ := csrUpdate_mcycleBase hu hne
    have haddr := csrOf_of_csrCheck hc
    rw [hwrites] at hi
    obtain ⟨-, hlow, hhigh⟩ := address_of_csrOf (a := j.csr)
    rcases hc' with rfl | rfl
    · rw [hlow haddr] at hi; exact .inl hi
    · rw [hhigh haddr] at hi; exact .inr hi
  | mnxti j _ _ ht => rw [mnxtiAccess_frame ht] at hne; exact absurd rfl hne
  | returns _ ht => rw [ht] at hne; exact absurd rfl hne

theorem takeInterrupt_mcycleBase {s t : State} {id : Nat} (h : takeInterrupt s id = .next t) :
    t.mcycleBase = s.mcycleBase := by
  obtain ⟨-, ⟨-, rfl⟩ | ⟨-, -, rfl⟩ | ⟨-, -, a, -, rfl⟩⟩ := takeInterrupt_next h <;> rfl

theorem takeInterrupt_boundary {s t : State} {id : Nat} (h : takeInterrupt s id = .next t) :
    t.boundary = s.boundary := by
  obtain ⟨-, ⟨-, rfl⟩ | ⟨-, -, rfl⟩ | ⟨-, -, a, -, rfl⟩⟩ := takeInterrupt_next h <;> rfl

/-- A step changes where the cycle count starts from only by an instruction that does. -/
theorem step_mcycleBase {s t : State} (h : step s = .next t) (hne : t.mcycleBase ≠ s.mcycleBase) :
    ∃ e i, fetch (passBoundary s) = .ok e ∧ decode e = .ok i ∧
      (AccessesCsr i 0xB00#12 true ∨ AccessesCsr i 0xB80#12 true) := by
  obtain ⟨-, -, u, hu, ht⟩ := step_next h
  have hbase : t.mcycleBase = u.mcycleBase := by rcases ht with rfl | ⟨-, rfl⟩ <;> rfl
  rw [hbase, ← passBoundary_mcycleBase s] at hne
  cases hu with
  | stalled hu => rw [hu] at hne; exact absurd (quietFrame_afterWfi _).mcycleBase hne
  | woken id _ hu =>
    rw [takeInterrupt_mcycleBase hu] at hne; exact absurd (quietFrame_afterWfi _).mcycleBase hne
  | interrupted id _ hu => exact absurd (takeInterrupt_mcycleBase hu) hne
  | executed e i hf hi hu => exact ⟨e, i, hf, hi, exec_mcycleBase hu hne⟩
  | excepted c tval hu => exact absurd (quietFrame_takeException hu).mcycleBase hne
  | debugged _ hu => rw [hu] at hne; exact absurd rfl hne

theorem exec_boundary {i : Instr} {s t : State} (h : exec i s = .next t) : t.boundary = s.boundary := by
  cases exec_leaves h with
  | quiet h => exact h.boundary
  | stored a w v len u _ hu ht => rw [ht, memWrite_frame hu]; rfl
  | refetches ht => rw [ht]; rfl
  | csr j c u _ _ hu ht =>
    obtain ⟨n, hn⟩ := csrRetire_writeReg_eq u j.rd (csrRead s c) j c (s.pc + 4#32)
    rw [ht, hn]
    exact (csrFrame_csrUpdate hu).boundary
  | mnxti j _ _ ht => rw [mnxtiAccess_frame ht]
  | returns _ ht => rw [ht]; rfl

/-- Each step passes one boundary. -/
theorem step_boundary {s t : State} (h : step s = .next t) : t.boundary = s.boundary + 1 := by
  obtain ⟨-, -, u, hu, ht⟩ := step_next h
  have hboundary : t.boundary = u.boundary := by rcases ht with rfl | ⟨-, rfl⟩ <;> rfl
  rw [hboundary, ← passBoundary_boundary s]
  cases hu with
  | stalled hu => rw [hu]; exact (quietFrame_afterWfi _).boundary
  | woken id _ hu => rw [takeInterrupt_boundary hu]; exact (quietFrame_afterWfi _).boundary
  | interrupted id _ hu => exact takeInterrupt_boundary hu
  | executed e i _ _ hu => exact exec_boundary hu
  | excepted c tval hu => exact (quietFrame_takeException hu).boundary
  | debugged _ hu => rw [hu]; rfl

theorem cyclesBefore_add (k n : Nat) : cyclesBefore k ≤ cyclesBefore (k + n) := by
  induction n with
  | zero => exact le_rfl
  | succ n ih => exact ih.trans (Nat.le_add_right _ _)

/-- Over a run the drawn cycles only grow. -/
theorem cyclesBefore_le_of_reaches {s t : State} (h : Reaches s t) :
    cyclesBefore s.boundary ≤ cyclesBefore t.boundary := by
  induction h with
  | refl s => exact le_rfl
  | step first _ ih =>
    rw [step_boundary first] at ih
    exact (cyclesBefore_add _ 1).trans ih

end Sys2Proof.Machine
end

section
/-! SUPPORT. The law of division over all operands, the special ones among them (spec/44_m_extension.md sections 1 and
3). -/

namespace Sys2Proof.Machine

/-- The remainder as one number for all operands: of a division by 0 it is the dividend, and on overflow 0. -/
theorem toInt_remainderSigned (a b : Word) : (remainderSigned a b).toInt = a.toInt.tmod b.toInt := by
  have hcases := remainderSigned_cases a b
  split at hcases
  case isTrue hb => rw [hcases, hb]; exact (Int.tmod_zero _).symm
  case isFalse =>
    split at hcases
    case isTrue hover => rw [hcases, hover.1, hover.2]; rfl
    case isFalse => rw [hcases, Int.tmod_def]

theorem signed_division_identity (a b : Word) : a = b * quotientSigned a b + remainderSigned a b := by
  unfold quotientSigned remainderSigned
  split
  case isTrue hb => rw [hb, BitVec.zero_mul, BitVec.zero_add]
  case isFalse =>
    split
    case isTrue hover => rw [hover.1, hover.2]; rfl
    case isFalse =>
      calc a = BitVec.ofInt 32 (b.toInt * a.toInt.tdiv b.toInt + (a.toInt - b.toInt * a.toInt.tdiv b.toInt)) := by
            rw [add_sub_cancel, BitVec.ofInt_toInt]
        _ = _ := by rw [BitVec.ofInt_add, BitVec.ofInt_mul, BitVec.ofInt_toInt]

theorem unsigned_division_identity (a b : Word) : a = b * quotientUnsigned a b + remainderUnsigned a b := by
  unfold quotientUnsigned remainderUnsigned
  split
  case isTrue hb => rw [hb, BitVec.zero_mul, BitVec.zero_add]
  case isFalse =>
    rw [← BitVec.udiv_def, ← BitVec.umod_def]
    apply BitVec.eq_of_toNat_eq
    rw [BitVec.toNat_add, BitVec.toNat_mul, BitVec.toNat_udiv, BitVec.toNat_umod, Nat.mod_add_mod, Nat.div_add_mod,
      Nat.mod_eq_of_lt a.isLt]

theorem natAbs_remainderSigned_lt (a : Word) {b : Word} (hb : b ≠ 0#32) :
    (remainderSigned a b).toInt.natAbs < b.toInt.natAbs := by
  have hpos : b.toInt ≠ 0 := fun h => hb (BitVec.eq_of_toInt_eq h)
  rw [toInt_remainderSigned, Int.natAbs_tmod]
  exact Nat.mod_lt _ (Int.natAbs_pos.2 hpos)

theorem toNat_remainderUnsigned_lt (a : Word) {b : Word} (hb : b ≠ 0#32) :
    (remainderUnsigned a b).toNat < b.toNat := by
  have hcases := remainderUnsigned_cases a b
  rw [if_neg hb] at hcases
  rw [hcases]
  exact Nat.mod_lt _ (Nat.pos_of_ne_zero fun h => hb (BitVec.eq_of_toNat_eq h))

/-- Settles O7: the identities of the four values, and the bounds of a truncated and of an unsigned remainder. -/
theorem divisionLaw : Obligations.DivisionLaw := by
  rintro s rd rs1 rs2 a b hrd rfl rfl
  refine ⟨⟨_, _, rfl, rfl, ?_⟩, ⟨_, _, rfl, rfl, ?_⟩⟩ <;>
    rw [readReg_retire, readReg_retire, readReg_writeReg_self _ _ _ hrd, readReg_writeReg_self _ _ _ hrd]
  case refine_1 =>
    rw [toInt_remainderSigned]
    refine ⟨signed_division_identity _ _, fun hb => ?_, fun ha => Int.tmod_nonneg _ ha, fun ha => ?_⟩
    · rw [← toInt_remainderSigned]; exact natAbs_remainderSigned_lt _ hb
    · have := Int.tmod_nonneg (a := -(readReg s rs1).toInt) (readReg s rs2).toInt (by omega)
      rw [Int.neg_tmod] at this
      omega
  case refine_2 => exact ⟨unsigned_division_identity _ _, fun hb => toNat_remainderUnsigned_lt _ hb⟩

end Sys2Proof.Machine
end

section
/-! SUPPORT. Loads and stores where the System Port answers: the bytes of a word, the operation in which each of the
instructions ends, and the two exceptions (spec/20_memory.md R135; spec/42_load_store.md R290 to R302;
spec/45_c_extension.md R363, R364, R382, R388). -/

namespace Sys2Proof.Machine

/-! ## Bytes and words (20 R135) -/

theorem ofBytes_cons {n : Nat} (b : Byte) {bs : List Byte} {v : BitVec n} (h : ofBytes bs = v.setWidth 32) :
    ofBytes (b :: bs) = (v ++ b).setWidth 32 := by
  ext i hi
  simp only [ofBytes, h, BitVec.getElem_or, BitVec.getElem_setWidth, BitVec.getElem_shiftLeft,
    BitVec.getLsbD_append]
  by_cases hlow : i < 8
  · simp [hlow]
  · simp [hlow, BitVec.getLsbD_of_ge b i (by omega)]

theorem ofBytes_one (b0 : Byte) : ofBytes [b0] = b0.setWidth 32 := BitVec.or_zero

theorem ofBytes_two (b0 b1 : Byte) : ofBytes [b0, b1] = (b1 ++ b0).setWidth 32 := ofBytes_cons b0 (ofBytes_one b1)

theorem ofBytes_four (b0 b1 b2 b3 : Byte) : ofBytes [b0, b1, b2, b3] = b3 ++ b2 ++ b1 ++ b0 :=
  (ofBytes_cons b0 (ofBytes_cons b1 (ofBytes_two b2 b3))).trans (BitVec.setWidth_eq _)

/-- The word at `a` in memory, as the statements write it. -/
theorem ofBytes_readBytes_four (m : List Host.Cell) (a : Nat) : ofBytes (Memory.readBytes m a 4) =
    Memory.read m (a + 3) ++ Memory.read m (a + 2) ++ Memory.read m (a + 1) ++ Memory.read m a :=
  ofBytes_four _ _ _ _

theorem ofBytes_readBytes_two (m : List Host.Cell) (a : Nat) :
    ofBytes (Memory.readBytes m a 2) = (Memory.read m (a + 1) ++ Memory.read m a).setWidth 32 :=
  ofBytes_two _ _

theorem ofBytes_readBytes_one (m : List Host.Cell) (a : Nat) :
    ofBytes (Memory.readBytes m a 1) = (Memory.read m a).setWidth 32 :=
  ofBytes_one _

/-- Taking the low bits of a word that was zero-extended from them, and extending them with their sign. -/
theorem toInt_signExtend_extract_setWidth {n : Nat} (v : BitVec n) (h : n ≤ 32) :
    (((v.setWidth 32).extractLsb' 0 n).signExtend 32).toInt = v.toInt := by
  have hv : (v.setWidth 32).extractLsb' 0 n = v := by
    ext i hi
    simp [hi.trans_le h, BitVec.getLsbD_eq_getElem hi]
  rw [hv, BitVec.toInt_signExtend_of_le h]

theorem toInt_signedByte (b : Byte) : (signedByte (b.setWidth 32)).toInt = b.toInt :=
  toInt_signExtend_extract_setWidth b (by decide)

theorem toInt_signedHalf (v : BitVec 16) : (signedHalf (v.setWidth 32)).toInt = v.toInt :=
  toInt_signExtend_extract_setWidth v (by decide)

/-! ## The operation in which a load or store ends (42 R290 to R302) -/

/-- The length of an instruction's encoding, as the pc moves over it. -/
def lengthWord (i : Instr) : Word := if (encode i).length = 4 then 4#32 else 2#32

theorem loadsFrom_ends {s : State} {i : Instr} {a : Word} {w : Size} (h : LoadsFrom s i a w) :
    ∃ rd ext, (∀ r, LoadsInto i r → r = rd) ∧ exec i s = loadTo s rd a w ext (lengthWord i) := by
  cases h <;> exact ⟨_, _, fun r hr => by cases hr; rfl, rfl⟩

theorem storesTo_ends {s : State} {i : Instr} {a : Word} {w : Size} (h : StoresTo s i a w) :
    ∃ v, exec i s = storeFrom s a w v (lengthWord i) := by
  cases h <;> exact ⟨_, rfl⟩

theorem toNat_add_zext (v : Word) {n : Nat} (imm : BitVec n) (h : n ≤ 32) :
    (v + zext imm).toNat = (v.toNat + imm.toNat) % 2 ^ 32 := by
  rw [BitVec.toNat_add, toNat_zext imm h]

/-- C.LWSP has no row for x0. -/
theorem decode_cLwsp_cases (u5 : BitVec 1) (r : Reg) (u42 : BitVec 3) (u76 : BitVec 2) :
    decode (.half (0b010#3 ++ u5 ++ r ++ u42 ++ u76 ++ 0b10#2)) =
      (if r = 0#5 then .error (.noCompressed (0b010#3 ++ u5 ++ r ++ u42 ++ u76 ++ 0b10#2))
       else .ok (.cLwsp r (u76 ++ u5 ++ u42 ++ 0#2))) := by
  split
  case isTrue h =>
    refine decode_half_of_match16_none ((match16_append_quadrant2 _).trans (decodeQ2_lwsp_x0 ?_ ?_)) <;>
      simp (disch := decide) only [crd, extract_append_low, extract_append_high, Nat.reduceSub, extract_self, h]
  case isFalse h => exact decode_cLwsp u5 h u42 u76

/-- Settles O10: the rows by their fields, the value by the bytes that the width reads, and an exception where the
access raises one. -/
theorem loadResults : Obligations.LoadResults := by
  intro s hq
  refine ⟨fun rd rs1 imm => ⟨decode_load, decode_load, decode_load, decode_load, decode_load⟩,
    fun rd rs1 r u53 u42 u2 u6 u5 u76 => ⟨decode_cLw u53 rs1 u2 u6 rd, decode_cLwsp_cases u5 r u42 u76⟩,
    ?full, ?cLw, ?cLwsp, ?raises⟩
  case full =>
    rintro rd rs1 imm _ rfl hr
    refine ⟨add_sext_eq_ofInt _ imm (by decide), ?lb, ?lbu, fun ha => ⟨?lh, ?lhu⟩, fun ha => ?lw⟩
    case lb =>
      refine loadTo_port hq (Nat.mod_one _) hr ?_
      rw [Size.bytes, ofBytes_readBytes_one, toInt_signedByte]
    case lbu =>
      refine loadTo_port hq (Nat.mod_one _) hr ?_
      rw [Size.bytes, ofBytes_readBytes_one]
      exact BitVec.toNat_setWidth_of_le (by decide)
    case lh =>
      refine loadTo_port hq ha hr ?_
      rw [Size.bytes, ofBytes_readBytes_two, toInt_signedHalf]
    case lhu =>
      refine loadTo_port hq ha hr ?_
      rw [Size.bytes, ofBytes_readBytes_two]
      exact BitVec.toNat_setWidth_of_le (by decide)
    case lw => exact loadTo_port hq ha hr (ofBytes_readBytes_four _ _)
  case cLw =>
    rintro rd rs1 uimm _ rfl hr ha
    exact ⟨toNat_add_zext _ uimm (by decide), toNat_cReg rd, loadTo_port hq ha hr (ofBytes_readBytes_four _ _)⟩
  case cLwsp =>
    rintro rd uimm _ rfl hr ha
    exact ⟨toNat_add_zext _ uimm (by decide), loadTo_port hq ha hr (ofBytes_readBytes_four _ _)⟩
  case raises =>
    intro i a w hi haligned
    obtain ⟨rd, ext, -, hexec⟩ := loadsFrom_ends hi
    rw [TakesException, TakesException, hexec]
    exact ⟨fun ha => loadTo_raises haligned (memRead_misaligned hq ha),
      fun ha hf => loadTo_raises haligned (memRead_faults hq ha hf)⟩

/-- Settles O11: the rows by their fields, the bytes of the value that the width stores, and an exception where the
access raises one. -/
theorem storeResults : Obligations.StoreResults := by
  intro s hq
  refine ⟨fun rs2 rs1 hi lo => ⟨decode_store, decode_store, decode_store⟩,
    fun rs2 rs1 r u53 u2 u6 u52 u76 => ⟨decode_cSw u53 rs1 u2 u6 rs2, decode_cSwsp u52 u76 r⟩,
    ?full, ?cSw, ?cSwsp, ?raises⟩
  case full =>
    rintro rs2 rs1 imm _ _ rfl rfl hr
    exact ⟨add_sext_eq_ofInt _ imm (by decide), storeFrom_port (w := .byte) hq (Nat.mod_one _) hr,
      fun ha => storeFrom_port (w := .half) hq ha hr, fun ha => storeFrom_port (w := .word) hq ha hr⟩
  case cSw =>
    rintro rs2 rs1 uimm _ _ rfl rfl hr ha
    exact ⟨toNat_add_zext _ uimm (by decide), toNat_cReg rs2, storeFrom_port (w := .word) hq ha hr⟩
  case cSwsp =>
    rintro rs2 uimm _ _ rfl rfl hr ha
    exact ⟨toNat_add_zext _ uimm (by decide), storeFrom_port (w := .word) hq ha hr⟩
  case raises =>
    intro i a w hi haligned
    obtain ⟨v, hexec⟩ := storesTo_ends hi
    rw [TakesException, TakesException, hexec]
    exact ⟨fun ha => storeFrom_raises haligned (memWrite_misaligned hq ha),
      fun ha hf => storeFrom_raises haligned (memWrite_faults hq ha hf)⟩

end Sys2Proof.Machine
end

section
/-! SUPPORT. Loads from the registers of the CLIC: what stands at each implemented address, and the words its bytes make
(spec/61_clic.md R501 to R514; spec/20_memory.md R155 to R161). -/

namespace Sys2Proof.Machine

/-! ## What stands where (61 R501, R508, R509) -/

theorem lintTopId_bounds (p : Params) : 47 ≤ lintTopId p ∧ lintTopId p ≤ 48 := by
  unfold lintTopId
  split <;> decide

theorem le_lintTopId {p : Params} {id : Nat} (h : id < 48 ∨ (id = 48 ∧ p.lint32 = true)) : id ≤ lintTopId p := by
  obtain h | ⟨rfl, hp⟩ := h
  · have := (lintTopId_bounds p).1
    omega
  · rw [lintTopId, hp]
    rfl

section
variable {p : Params} {id k : Nat}

theorem clicSlot_ip_of_le (h : id ≤ lintTopId p) : clicSlot p (0x02800000 + id) = some (.ip id) := by
  rw [clicSlot, if_neg (by omega), if_neg (by omega), if_neg (by omega), if_pos (by omega), Nat.add_sub_cancel_left]

theorem clicSlot_ie (h : id ≤ lintTopId p) : clicSlot p (0x02800400 + id) = some (.ie id) := by
  have := (lintTopId_bounds p).2
  rw [clicSlot, if_neg (by omega), if_neg (by omega), if_neg (by omega), if_neg (by omega), if_pos (by omega),
    Nat.add_sub_cancel_left]

theorem clicSlot_cfg (h : id ≤ lintTopId p) : clicSlot p (0x02800800 + id) = some (.cfg id) := by
  have := (lintTopId_bounds p).2
  rw [clicSlot, if_neg (by omega), if_neg (by omega), if_neg (by omega), if_neg (by omega), if_neg (by omega),
    if_pos (by omega), Nat.add_sub_cancel_left]

theorem clicSlot_cliccfg (p : Params) : clicSlot p 0x02800C00 = some .cliccfg := by
  have := (lintTopId_bounds p).2
  rw [clicSlot, if_neg (by omega), if_neg (by omega), if_neg (by omega), if_neg (by omega), if_neg (by omega),
    if_neg (by omega), if_pos rfl]

theorem clicSlot_mtimecmp (p : Params) (h : k < 8) : clicSlot p (0x02004000 + k) = some (.mtimecmp k) := by
  rw [clicSlot, if_neg (by omega), if_pos (by omega), Nat.add_sub_cancel_left]

theorem clicSlot_mtime (p : Params) (h : k < 8) : clicSlot p (0x0200BFF8 + k) = some (.mtime k) := by
  rw [clicSlot, if_neg (by omega), if_neg (by omega), if_pos (by omega), Nat.add_sub_cancel_left]

end

theorem inClic_of_clicSlot {p : Params} {a : Word} {slot : ClicSlot} (h : clicSlot p a.toNat = some slot) :
    InClic a := by
  have := (lintTopId_bounds p).2
  unfold clicSlot at h
  unfold InClic
  split_ifs at h <;> omega

/-! ## Reading bytes (61 R509) -/

theorem clicRead_isSome {s : State} {a n : Nat} (h : ∀ k < n, clicSlot s.params (a + k) ≠ none) :
    ∃ bs, clicRead s a n = some bs := by
  induction n generalizing a with
  | zero => exact ⟨[], rfl⟩
  | succ n ih =>
    obtain ⟨slot, hslot⟩ := Option.ne_none_iff_exists'.1 (h 0 (Nat.succ_pos n))
    obtain ⟨bs, hbs⟩ := ih (a := a + 1) fun k hk => by
      rw [Nat.add_assoc, Nat.add_comm 1 k]
      exact h (k + 1) (Nat.succ_lt_succ hk)
    exact ⟨_, clicRead_succ hslot hbs⟩

/-- Four neighbouring bytes. -/
theorem clicRead_four {s : State} {a : Nat} {slot : Nat → ClicSlot}
    (h : ∀ k < 4, clicSlot s.params (a + k) = some (slot k)) :
    clicRead s a 4 = some [clicReadSlot s (slot 0), clicReadSlot s (slot 1), clicReadSlot s (slot 2),
      clicReadSlot s (slot 3)] :=
  clicRead_succ (h 0 (by decide)) <| clicRead_succ (h 1 (by decide)) <| clicRead_succ (h 2 (by decide)) <|
    clicRead_succ (h 3 (by decide)) rfl

/-- Four neighbouring bytes of a 64-bit register are a word of it. -/
theorem ofBytes_extract (v : BitVec 64) (k : Nat) :
    ofBytes [v.extractLsb' (8 * k) 8, v.extractLsb' (8 * (k + 1)) 8, v.extractLsb' (8 * (k + 2)) 8,
      v.extractLsb' (8 * (k + 3)) 8] = v.extractLsb' (8 * k) 32 := by
  rw [ofBytes_four, extract_append_extract v 8 (by omega), extract_append_extract v 16 (by omega),
    extract_append_extract v 24 (by omega)]

theorem clicRead_mtimecmp (s : State) {k : Nat} (h : k + 3 < 8) :
    ∃ bs, clicRead s (0x02004000 + k) 4 = some bs ∧ ofBytes bs = s.clic.mtimecmp.extractLsb' (8 * k) 32 :=
  ⟨_, clicRead_four (slot := fun j => .mtimecmp (k + j)) fun j hj => by
    rw [Nat.add_assoc, clicSlot_mtimecmp _ (by omega)], ofBytes_extract _ k⟩

theorem clicRead_mtime (s : State) {k : Nat} (h : k + 3 < 8) :
    ∃ bs, clicRead s (0x0200BFF8 + k) 4 = some bs ∧ ofBytes bs = s.mtime.extractLsb' (8 * k) 32 :=
  ⟨_, clicRead_four (slot := fun j => .mtime (k + j)) fun j hj => by
    rw [Nat.add_assoc, clicSlot_mtime _ (by omega)], ofBytes_extract _ k⟩

theorem toNat_lowWord (v : BitVec 64) : (v.extractLsb' 0 32).toNat = v.toNat % 2 ^ 32 := by
  rw [BitVec.extractLsb'_toNat, Nat.shiftRight_zero]

theorem toNat_highWord (v : BitVec 64) : (v.extractLsb' 32 32).toNat = v.toNat / 2 ^ 32 := by
  have := v.isLt
  rw [BitVec.extractLsb'_toNat, Nat.shiftRight_eq_div_pow]
  omega

/-! ## What a byte reads (61 R511 to R514) -/

theorem pendingNow_of_le {s : State} {id : Nat} (h : id ≤ lintTopId s.params) :
    pendingNow s id = if id = 3 then s.clic.msip
      else if id = 7 then decide (s.clic.mtimecmp.toNat ≤ s.mtime.toNat)
      else if id = 11 then s.meipWire
      else if id = 12 then s.clic.csip
      else decide (16 ≤ id) && s.lintWires.getLsbD (id - 16) := by
  have htimer : timerPending s.mtime s.clic.mtimecmp = decide (s.clic.mtimecmp.toNat ≤ s.mtime.toNat) := rfl
  rw [pendingNow, pendingOf, htimer]
  split_ifs with h3 h7 h11 h12 hid
  · rfl
  · rfl
  · rfl
  · rfl
  · rw [decide_eq_true (by simp [implementedId, h3, h7, h11, h12] at hid; exact hid.1), Bool.true_and]
  · rw [decide_eq_false (by simpa [implementedId, h3, h7, h11, h12, h] using hid), Bool.false_and]

theorem ofBytes_bitByte (b : Bool) : ofBytes [bitByte b] = if b then 1#32 else 0#32 := ofBytes_bitByte_zeros b 0

theorem toNat_ofBytes_one (b : Byte) : (ofBytes [b]).toNat = b.toNat := by
  rw [ofBytes_one]
  exact BitVec.toNat_setWidth_of_le (by decide)

theorem toNat_append_eq_add {n m : Nat} (x : BitVec n) (y : BitVec m) :
    (x ++ y).toNat = x.toNat * 2 ^ m + y.toNat := by
  rw [BitVec.toNat_append, ← Nat.shiftLeft_add_eq_or_of_lt y.isLt, Nat.shiftLeft_eq]

theorem toNat_clicReadSlot_cliccfg (s : State) : (clicReadSlot s .cliccfg).toNat =
    128 * s.clic.cliccfg7.toNat + 2 * s.clic.nlbits.toNat + s.clic.nvbits.toNat := by
  rw [clicReadSlot, toNat_append_eq_add, toNat_append_eq_add, toNat_append_zero, BitVec.toNat_ofBool,
    BitVec.toNat_ofBool]
  omega

/-! ## The loads -/

/-- LBU of an implemented byte. -/
theorem exec_lbu_clic {s : State} {rd rs1 : Reg} {imm : BitVec 12} {slot : ClicSlot} {P : Word → Prop}
    (hq : NoTrigger s .load) (hslot : clicSlot s.params (effectiveAddress s rs1 imm).toNat = some slot)
    (hP : P (ofBytes [clicReadSlot s slot])) :
    ∃ t, exec (.lbu rd rs1 imm) s = .next t ∧ ClicLoaded s t 4#32 ∧ WritesReg s t rd P :=
  loadTo_clic hq (Nat.mod_one _) (inClic_of_clicSlot hslot) (clicRead_succ hslot rfl) hP

/-- LW of four implemented bytes. -/
theorem exec_lw_clic {s : State} {rd rs1 : Reg} {imm : BitVec 12} {a : Nat} {P : Word → Prop} (hq : NoTrigger s .load)
    (ha : (effectiveAddress s rs1 imm).toNat = a) (haligned : a % 4 = 0) (hc : 0x02000000 ≤ a ∧ a < 0x03000000)
    {bs : List Byte} (hbs : clicRead s a 4 = some bs) (hP : P (ofBytes bs)) :
    ∃ t, exec (.lw rd rs1 imm) s = .next t ∧ ClicLoaded s t 4#32 ∧ WritesReg s t rd P := by
  subst ha
  exact loadTo_clic hq haligned hc hbs hP

/-- Settles O13: the byte at each address by its slot, the words by their four bytes, and completion because every byte
is implemented. -/
theorem clicReads : Obligations.ClicReads := by
  intro s hq
  refine ⟨?bytes, ?words, ?every⟩
  case bytes =>
    rintro rd rs1 imm _ id rfl hid
    have htop := le_lintTopId hid
    have hlt : id < 49 := by omega
    refine ⟨fun ha => ?ip, fun ha => ?ie, fun ha => ?cfg, fun ha => ?cliccfg⟩
    case ip =>
      refine exec_lbu_clic hq (ha ▸ clicSlot_ip_of_le htop) ?_
      rw [clicReadSlot, ofBytes_bitByte, pendingNow_of_le htop]
    case ie =>
      refine exec_lbu_clic (slot := .ie id) hq (ha ▸ clicSlot_ie htop) ⟨ofBytes_bitByte _, fun hreserved himpl => ?_⟩
      rw [clicReadSlot, (hreserved id hlt himpl).1]
      rfl
    case cfg =>
      have hvalue : (ofBytes [clicReadSlot s (.cfg id)]).toNat = 64 * (s.clic.cfgOf id).toNat := by
        rw [toNat_ofBytes_one, clicReadSlot, toNat_append_zero]
        exact Nat.mul_comm _ _
      refine exec_lbu_clic hq (ha ▸ clicSlot_cfg htop) ⟨hvalue, fun hreserved himpl => BitVec.eq_of_toNat_eq ?_⟩
      rw [hvalue, (hreserved id hlt himpl).2]
      rfl
    case cliccfg =>
      refine exec_lbu_clic hq (ha ▸ clicSlot_cliccfg s.params) ?_
      rw [toNat_ofBytes_one, toNat_clicReadSlot_cliccfg]
  case words =>
    rintro rd rs1 imm _ rfl
    refine ⟨fun ha => ?msip, fun ha => ?cmpLow, fun ha => ?cmpHigh, fun ha => ?timeLow, fun ha => ?timeHigh⟩
    case msip =>
      exact exec_lw_clic hq (congrArg BitVec.toNat ha) rfl (by decide) (clicRead_msip s) (ofBytes_bitByte_zeros _ 3)
    case cmpLow =>
      obtain ⟨bs, hbs, hv⟩ := clicRead_mtimecmp s (k := 0) (by decide)
      exact exec_lw_clic hq (congrArg BitVec.toNat ha) rfl (by decide) hbs (hv ▸ toNat_lowWord _)
    case cmpHigh =>
      obtain ⟨bs, hbs, hv⟩ := clicRead_mtimecmp s (k := 4) (by decide)
      exact exec_lw_clic hq (congrArg BitVec.toNat ha) rfl (by decide) hbs (hv ▸ toNat_highWord _)
    case timeLow =>
      obtain ⟨bs, hbs, hv⟩ := clicRead_mtime s (k := 0) (by decide)
      exact exec_lw_clic hq (congrArg BitVec.toNat ha) rfl (by decide) hbs (hv ▸ toNat_lowWord _)
    case timeHigh =>
      obtain ⟨bs, hbs, hv⟩ := clicRead_mtime s (k := 4) (by decide)
      exact exec_lw_clic hq (congrArg BitVec.toNat ha) rfl (by decide) hbs (hv ▸ toNat_highWord _)
  case every =>
    intro i rd a w hi hrd ha hc himpl
    obtain ⟨rd', ext, hrd', hexec⟩ := loadsFrom_ends hi
    obtain ⟨bs, hbs⟩ := clicRead_isSome himpl
    rw [hexec, hrd' rd hrd]
    exact loadTo_clic hq ha hc hbs trivial

end Sys2Proof.Machine
end

section
/-! SUPPORT. Stores to the registers of the CLIC: the bits that a byte replaces, and the words that four bytes replace
(spec/61_clic.md R501 to R514; spec/20_memory.md R155 to R161). -/

namespace Sys2Proof.Machine

/-! ## Storing bytes (61 R509) -/

theorem clicWrite_isSome {s : State} {a : Nat} {bs : List Byte}
    (h : ∀ k < bs.length, clicSlot s.params (a + k) ≠ none) : ∃ u, clicWrite s a bs = some u := by
  induction bs generalizing s a with
  | nil => exact ⟨s, rfl⟩
  | cons b bs ih =>
    obtain ⟨slot, hslot⟩ := Option.ne_none_iff_exists'.1 (h 0 (Nat.succ_pos _))
    rw [Nat.add_zero] at hslot
    rw [clicWrite_cons hslot]
    refine ih fun k hk => ?_
    rw [clicWriteSlot_params, Nat.add_assoc, Nat.add_comm 1 k]
    exact h (k + 1) (Nat.succ_lt_succ hk)

theorem clicWrite_byte {s : State} {a : Nat} {slot : ClicSlot} (h : clicSlot s.params a = some slot) (v : Word) :
    clicWrite s a (bytesOf v 1) = some (clicWriteSlot s (wordByte v 0) slot) :=
  clicWrite_cons h _ _

/-! ## Bits of a byte stored (61 R511 to R514) -/

theorem getLsbD_wordByte (v : Word) (j k : Nat) : (wordByte v j).getLsbD k = (decide (k < 8) && v.getLsbD (8 * j + k)) :=
  BitVec.getLsbD_extractLsb' ..

theorem extract_wordByte_zero (v : Word) (l k : Nat) (h : l + k ≤ 8) :
    (wordByte v 0).extractLsb' l k = v.extractLsb' l k := by
  ext i hi
  rw [BitVec.getElem_extractLsb', BitVec.getElem_extractLsb', getLsbD_wordByte, Nat.mul_zero, Nat.zero_add,
    decide_eq_true (by omega), Bool.true_and]

theorem getLsbD_setIeBit (v : BitVec 49) (i : Nat) (b : Bool) {j : Nat} (hj : j < 49) :
    (setIeBit v i b).getLsbD j = if j = i then b else v.getLsbD j := by
  have hbit : (1#49 <<< i).getLsbD j = decide (j = i) := by
    have htwo : 1#49 <<< i = BitVec.twoPow 49 i := rfl
    rw [htwo, BitVec.getLsbD_twoPow]
    by_cases h : j = i
    · simp [← h, hj]
    · simp [h, Ne.symm h]
  rw [setIeBit]
  split
  case isTrue hb => rw [BitVec.getLsbD_or, hbit]; by_cases h : j = i <;> simp [h, hb]
  case isFalse hb => rw [BitVec.getLsbD_and, BitVec.getLsbD_not, hbit]; by_cases h : j = i <;> simp_all

theorem cfgOf_setIfInBounds (c : ClicRegs) (i : Nat) (v : BitVec 2) {j : Nat} (hj : j < 49) :
    ({ c with cfg := c.cfg.setIfInBounds i v } : ClicRegs).cfgOf j = if j = i then v else c.cfgOf j := by
  rw [ClicRegs.cfgOf, dif_pos hj, ClicRegs.cfgOf, dif_pos hj, Vector.getElem_setIfInBounds]
  exact if_congr eq_comm rfl rfl

theorem clicWriteSlot_ie_getLsbD (s : State) (b : Byte) (id : Nat) {j : Nat} (hj : j < 49) :
    (clicWriteSlot s b (.ie id)).clic.ie.getLsbD j =
      if j = id ∧ implementedId s.params id = true then b.getLsbD 0 else s.clic.ie.getLsbD j := by
  rw [clicWriteSlot]
  split
  case isTrue h => simp only [h, and_true, getLsbD_setIeBit _ _ _ hj]
  case isFalse h => rw [if_neg fun hj => h hj.2]

theorem clicWriteSlot_cfg_cfgOf (s : State) (b : Byte) (id : Nat) {j : Nat} (hj : j < 49) :
    (clicWriteSlot s b (.cfg id)).clic.cfgOf j =
      if j = id ∧ implementedId s.params id = true then b.extractLsb' 6 2 else s.clic.cfgOf j := by
  rw [clicWriteSlot]
  split
  case isTrue h => simp only [h, and_true, cfgOf_setIfInBounds _ _ _ hj]
  case isFalse h => rw [if_neg fun hj => h hj.2]

theorem clicWriteSlot_ie_frame (s : State) (b : Byte) (id : Nat) :
    clicWriteSlot s b (.ie id) =
      { s with clic := { s.clic with ie := (clicWriteSlot s b (.ie id)).clic.ie } } := by
  rw [clicWriteSlot]
  split <;> rfl

theorem clicWriteSlot_cfg_frame (s : State) (b : Byte) (id : Nat) :
    clicWriteSlot s b (.cfg id) =
      { s with clic := { s.clic with cfg := (clicWriteSlot s b (.cfg id)).clic.cfg } } := by
  rw [clicWriteSlot]
  split <;> rfl

/-- Pending bits that are wires or the timer comparison, and those of reserved IDs, ignore a store. -/
theorem clicWriteSlot_ip_other (s : State) (b : Byte) {id : Nat} (h3 : id ≠ 3) (h12 : id ≠ 12) :
    clicWriteSlot s b (.ip id) = s := by
  rw [clicWriteSlot, if_neg h3, if_neg h12]

/-! ## Words of a 64-bit register (61 R504, R505) -/

theorem getLsbD_setByte64 (m : BitVec 64) (k : Nat) (b : Byte) {i : Nat} (hi : i < 64) :
    (setByte64 m k b).getLsbD i = if 8 * k ≤ i ∧ i < 8 * k + 8 then b.getLsbD (i - 8 * k) else m.getLsbD i := by
  have hmask : (0xFF#64 <<< (8 * k)).getLsbD i = decide (8 * k ≤ i ∧ i < 8 * k + 8) := by
    have hones : 0xFF#64 = (BitVec.allOnes 8).setWidth 64 := by decide
    rw [hones, BitVec.getLsbD_shiftLeft, BitVec.getLsbD_setWidth, BitVec.getLsbD_allOnes, Bool.eq_iff_iff]
    simp
    omega
  have hbyte : (b.setWidth 64 <<< (8 * k)).getLsbD i =
      (decide (8 * k ≤ i ∧ i < 8 * k + 8) && b.getLsbD (i - 8 * k)) := by
    rw [BitVec.getLsbD_shiftLeft, BitVec.getLsbD_setWidth]
    by_cases h : 8 * k ≤ i ∧ i < 8 * k + 8
    · rw [decide_eq_true hi, decide_eq_false (by omega), decide_eq_true h, decide_eq_true (by omega)]
      rfl
    · rw [decide_eq_false h, Bool.false_and]
      by_cases hlow : 8 * k ≤ i
      · rw [BitVec.getLsbD_of_ge b _ (by omega), Bool.and_false, Bool.and_false]
      · simp [hlow]
  rw [setByte64, BitVec.getLsbD_or, BitVec.getLsbD_and, BitVec.getLsbD_not, hmask, hbyte]
  by_cases h : 8 * k ≤ i ∧ i < 8 * k + 8 <;> simp [h, hi]

/-- Replace four neighbouring bytes of a 64-bit register by those of a word, the lowest first. -/
def setWord64 (m : BitVec 64) (k : Nat) (v : Word) : BitVec 64 :=
  setByte64 (setByte64 (setByte64 (setByte64 m k (wordByte v 0)) (k + 1) (wordByte v 1)) (k + 2) (wordByte v 2))
    (k + 3) (wordByte v 3)

theorem getLsbD_setWord64 (m : BitVec 64) (k : Nat) (v : Word) {i : Nat} (hi : i < 64) :
    (setWord64 m k v).getLsbD i = if 8 * k ≤ i ∧ i < 8 * k + 32 then v.getLsbD (i - 8 * k) else m.getLsbD i := by
  have hbyte (j : Nat) (h : 8 * (k + j) ≤ i ∧ i < 8 * (k + j) + 8) :
      (wordByte v j).getLsbD (i - 8 * (k + j)) = v.getLsbD (i - 8 * k) := by
    rw [getLsbD_wordByte, decide_eq_true (by omega), Bool.true_and]
    congr 1
    omega
  rw [setWord64, getLsbD_setByte64 _ _ _ hi, getLsbD_setByte64 _ _ _ hi, getLsbD_setByte64 _ _ _ hi,
    getLsbD_setByte64 _ _ _ hi]
  by_cases hall : 8 * k ≤ i ∧ i < 8 * k + 32
  · rw [if_pos hall]
    split_ifs with h3 h2 h1 h0
    · exact hbyte 3 h3
    · exact hbyte 2 h2
    · exact hbyte 1 h1
    · exact hbyte 0 h0
    · omega
  · rw [if_neg hall, if_neg (by omega), if_neg (by omega), if_neg (by omega), if_neg (by omega)]

theorem setWord64_low (m : BitVec 64) (v : Word) : setWord64 m 0 v = m.extractLsb' 32 32 ++ v := by
  apply BitVec.eq_of_getLsbD_eq
  intro i hi
  rw [getLsbD_setWord64 _ _ _ hi, BitVec.getLsbD_append, BitVec.getLsbD_extractLsb']
  by_cases h : i < 32
  · simp [h]
  · rw [if_neg (by omega), if_neg h, decide_eq_true (by omega), Bool.true_and, Nat.add_sub_cancel' (by omega)]

theorem setWord64_high (m : BitVec 64) (v : Word) : setWord64 m 4 v = v ++ m.extractLsb' 0 32 := by
  apply BitVec.eq_of_getLsbD_eq
  intro i hi
  rw [getLsbD_setWord64 _ _ _ hi, BitVec.getLsbD_append, BitVec.getLsbD_extractLsb']
  by_cases h : i < 32
  · simp [h]
  · rw [if_pos (by omega), if_neg h]

/-- The state with `mtimecmp` replaced. -/
def withMtimecmp (s : State) (m : BitVec 64) : State := { s with clic := { s.clic with mtimecmp := m } }

/-- The state with `mtime` replaced. -/
def withMtime (s : State) (m : BitVec 64) : State := { s with mtime := m }

theorem clicWriteSlot_mtimecmp (s : State) (b : Byte) (k : Nat) :
    clicWriteSlot s b (.mtimecmp k) = withMtimecmp s (setByte64 s.clic.mtimecmp k b) := rfl

@[simp] theorem withMtimecmp_mtimecmp (s : State) (m : BitVec 64) : (withMtimecmp s m).clic.mtimecmp = m := rfl

@[simp] theorem withMtimecmp_withMtimecmp (s : State) (m n : BitVec 64) : withMtimecmp (withMtimecmp s m) n = withMtimecmp s n := rfl

theorem clicWriteSlot_mtime (s : State) (b : Byte) (k : Nat) :
    clicWriteSlot s b (.mtime k) = withMtime s (setByte64 s.mtime k b) := rfl

@[simp] theorem withMtime_mtime (s : State) (m : BitVec 64) : (withMtime s m).mtime = m := rfl

@[simp] theorem withMtime_withMtime (s : State) (m n : BitVec 64) : withMtime (withMtime s m) n = withMtime s n := rfl

/-- Four neighbouring bytes. -/
theorem clicWrite_four {s : State} {a : Nat} {slot : Nat → ClicSlot}
    (h : ∀ k < 4, clicSlot s.params (a + k) = some (slot k)) (v : Word) :
    clicWrite s a (bytesOf v 4) = some (clicWriteSlot (clicWriteSlot (clicWriteSlot (clicWriteSlot s
      (wordByte v 0) (slot 0)) (wordByte v 1) (slot 1)) (wordByte v 2) (slot 2)) (wordByte v 3) (slot 3)) := by
  have hbytes : bytesOf v 4 = [wordByte v 0, wordByte v 1, wordByte v 2, wordByte v 3] := rfl
  rw [hbytes, clicWrite_cons (a := a) (h 0 (by decide)), clicWrite_cons (slot := slot 1) (by simpa using h 1 (by decide)),
    clicWrite_cons (slot := slot 2) (by simpa using h 2 (by decide)),
    clicWrite_cons (slot := slot 3) (by simpa using h 3 (by decide))]
  rfl

theorem clicWrite_mtimecmp (s : State) {k : Nat} (h : k + 3 < 8) (v : Word) :
    clicWrite s (0x02004000 + k) (bytesOf v 4) = some (withMtimecmp s (setWord64 s.clic.mtimecmp k v)) := by
  rw [clicWrite_four (slot := fun j => .mtimecmp (k + j)) fun j hj => by rw [Nat.add_assoc, clicSlot_mtimecmp _ (by omega)]]
  simp only [clicWriteSlot_mtimecmp, withMtimecmp_mtimecmp, withMtimecmp_withMtimecmp, Nat.add_zero, setWord64]

theorem clicWrite_mtime (s : State) {k : Nat} (h : k + 3 < 8) (v : Word) :
    clicWrite s (0x0200BFF8 + k) (bytesOf v 4) = some (withMtime s (setWord64 s.mtime k v)) := by
  rw [clicWrite_four (slot := fun j => .mtime (k + j)) fun j hj => by rw [Nat.add_assoc, clicSlot_mtime _ (by omega)]]
  simp only [clicWriteSlot_mtime, withMtime_mtime, withMtime_withMtime, Nat.add_zero, setWord64]

/-! ## The stores -/

/-- SB to an implemented byte. -/
theorem exec_sb_clic {s : State} {rs2 rs1 : Reg} {imm : BitVec 12} {slot : ClicSlot} (hq : NoTrigger s .store)
    (hslot : clicSlot s.params (effectiveAddress s rs1 imm).toNat = some slot) :
    ∃ t, exec (.sb rs2 rs1 imm) s = .next t ∧ ClicStored s t 4#32 ∧
      t.mtime = (clicWriteSlot s (wordByte (readReg s rs2) 0) slot).mtime ∧
      t.clic = (clicWriteSlot s (wordByte (readReg s rs2) 0) slot).clic :=
  storeFrom_clic (w := .byte) hq (Nat.mod_one _) (inClic_of_clicSlot hslot) (clicWrite_byte hslot _)

/-- SW to four implemented bytes. -/
theorem exec_sw_clic {s u : State} {rs2 rs1 : Reg} {imm : BitVec 12} {a : Nat} (hq : NoTrigger s .store)
    (ha : (effectiveAddress s rs1 imm).toNat = a) (haligned : a % 4 = 0) (hc : 0x02000000 ≤ a ∧ a < 0x03000000)
    (hu : clicWrite s a (bytesOf (readReg s rs2) 4) = some u) :
    ∃ t, exec (.sw rs2 rs1 imm) s = .next t ∧ ClicStored s t 4#32 ∧ t.mtime = u.mtime ∧ t.clic = u.clic := by
  subst ha
  exact storeFrom_clic (w := .word) hq haligned hc hu

/-- Settles O14: what a byte replaces by its slot, the words by their four bytes, and completion because every byte is
implemented. -/
theorem clicWrites : Obligations.ClicWrites := by
  intro s hq
  refine ⟨?bytes, ?words, ?every⟩
  case bytes =>
    rintro rs2 rs1 imm _ _ id rfl rfl hid
    have htop := le_lintTopId hid
    refine ⟨fun ha h3 h12 => ?wires, fun ha h12 => ?csip, fun ha => ?ie, fun ha => ?cfg, fun ha => ?cliccfg⟩
    case wires =>
      obtain ⟨t, ht, hstored, hmtime, hclic⟩ := exec_sb_clic (rs2 := rs2) hq (ha ▸ clicSlot_ip_of_le htop)
      rw [clicWriteSlot_ip_other _ _ h3 h12] at hmtime hclic
      exact ⟨t, ht, hstored, hclic, hmtime⟩
    case csip =>
      subst h12
      obtain ⟨t, ht, hstored, hmtime, hclic⟩ := exec_sb_clic (rs2 := rs2) hq (ha ▸ clicSlot_ip_of_le htop)
      exact ⟨t, ht, hstored, hmtime, by rw [hclic, ← getLsbD_wordByte_zero]; rfl⟩
    case ie =>
      obtain ⟨t, ht, hstored, hmtime, hclic⟩ := exec_sb_clic (rs2 := rs2) hq (ha ▸ clicSlot_ie htop)
      refine ⟨t, ht, hstored, ?_, ?_, fun j hj => ?_⟩
      · rw [hmtime, clicWriteSlot_ie_frame]
      · rw [hclic, clicWriteSlot_ie_frame]
      · rw [hclic, clicWriteSlot_ie_getLsbD _ _ _ hj, getLsbD_wordByte_zero]
    case cfg =>
      obtain ⟨t, ht, hstored, hmtime, hclic⟩ := exec_sb_clic (rs2 := rs2) hq (ha ▸ clicSlot_cfg htop)
      refine ⟨t, ht, hstored, ?_, ?_, fun j hj => ?_⟩
      · rw [hmtime, clicWriteSlot_cfg_frame]
      · rw [hclic, clicWriteSlot_cfg_frame]
      · rw [hclic, clicWriteSlot_cfg_cfgOf _ _ _ hj, extract_wordByte_zero _ _ _ (by decide)]
    case cliccfg =>
      obtain ⟨t, ht, hstored, hmtime, hclic⟩ := exec_sb_clic (rs2 := rs2) hq (ha ▸ clicSlot_cliccfg s.params)
      refine ⟨t, ht, hstored, hmtime, ?_, fun h7 => ?_⟩
      · rw [hclic, ← getLsbD_wordByte_zero, ← extract_wordByte_zero _ _ _ (by decide)]
        rfl
      · rw [hclic]
        exact if_pos (by rw [getLsbD_wordByte]; exact h7)
  case words =>
    rintro rs2 rs1 imm _ _ rfl rfl
    rw [← setWord64_low, ← setWord64_high, ← setWord64_low, ← setWord64_high]
    refine ⟨fun ha => ?cmpLow, fun ha => ?cmpHigh, fun ha => ?timeLow, fun ha => ?timeHigh⟩
    case cmpLow =>
      exact exec_sw_clic hq (congrArg BitVec.toNat ha) rfl (by decide) (clicWrite_mtimecmp s (k := 0) (by decide) _)
    case cmpHigh =>
      exact exec_sw_clic hq (congrArg BitVec.toNat ha) rfl (by decide) (clicWrite_mtimecmp s (k := 4) (by decide) _)
    case timeLow =>
      obtain ⟨t, ht, hstored, hmtime, hclic⟩ :=
        exec_sw_clic hq (congrArg BitVec.toNat ha) rfl (by decide) (clicWrite_mtime s (k := 0) (by decide) _)
      exact ⟨t, ht, hstored, hclic, hmtime⟩
    case timeHigh =>
      obtain ⟨t, ht, hstored, hmtime, hclic⟩ :=
        exec_sw_clic hq (congrArg BitVec.toNat ha) rfl (by decide) (clicWrite_mtime s (k := 4) (by decide) _)
      exact ⟨t, ht, hstored, hclic, hmtime⟩
  case every =>
    intro i a w hi ha hc himpl
    obtain ⟨v, hexec⟩ := storesTo_ends hi
    obtain ⟨u, hu⟩ := clicWrite_isSome (s := s) (a := a.toNat) (bs := bytesOf v w.bytes)
      (by rwa [bytesOf_length])
    obtain ⟨t, ht, hstored, -, -⟩ := storeFrom_clic hq ha hc hu
    rw [hexec]
    exact ⟨t, ht, hstored⟩

end Sys2Proof.Machine
end

section
/-! SUPPORT. Instruction fetch: the parcels that the Port holds, the faults, a store not yet followed by FENCE.I, and the
step that runs what stands at the pc (spec/20_memory.md R136, R141 to R144, R152, R170, R172). -/

namespace Sys2Proof.Machine

/-! ## Parcels (20 R141 to R144, R170, R172) -/

/-- Where no store is outstanding, a parcel is fetched as memory holds it. -/
theorem parcelAt_of_fenced {s : State} (h : s.unfenced = []) (a : Nat) :
    parcelAt s a = Memory.read s.mem (a + 1) ++ Memory.read s.mem a := by
  rw [parcelAt, parcelStores, h]
  rfl

theorem fetchParcel_port {s : State} {a : Word} (h : ReadablePort s a) : fetchParcel s a = .ok (parcelAt s a.toNat) := by
  rw [fetchParcel, regionOf_inPort h.1]
  rcases h.2 with hb | hb <;> simp [hb]

theorem fetchParcel_faults {s : State} {a : Word} (h : FetchFaults s a) :
    fetchParcel s a = .raise .instructionAccessFault a := by
  rw [fetchParcel]
  rcases h with hclic | hreserved | ⟨hdebug, hmode⟩ | ⟨hport, hb⟩
  · rw [regionOf_inClic hclic]
  · rw [regionOf_inReserved hreserved]
  · rw [regionOf_inDebug hdebug]; simp [hmode]
  · rw [regionOf_inPort hport]
    rcases hb with hb | hb <;> simp [hb]

/-! ## The fetch at the pc (20 R152) -/

theorem fetch_quiet {s : State} (hq : NoTrigger s .fetch) : fetch s = (fetchParcel s s.pc).bind (fetchRest s) := by
  rw [fetch, triggerCheck_quiet hq, bind_ok]

theorem fetchRest_full {s : State} (hq : NoTrigger s .fetch) {p : BitVec 16} (h : parcelIsFull p = true) :
    fetchRest s p = (fetchParcel s (s.pc + 2#32)).bind fun q => .ok (.full (q ++ p)) := by
  rw [fetchRest, if_pos h, triggerCheck_quiet hq, bind_ok]

theorem fetchRest_half (s : State) {p : BitVec 16} (h : parcelIsFull p = false) : fetchRest s p = .ok (.half p) := by
  rw [fetchRest, if_neg (by simp [h])]

theorem fetchAndRun_ok {s : State} {e : Encoded} (h : fetch s = .ok e) : fetchAndRun s = runEncoded s e := by
  rw [fetchAndRun, h]

theorem fetchAndRun_raise {s : State} {c : ExceptionCause} {tval : Word} (h : fetch s = .raise c tval) :
    fetchAndRun s = takeException s c tval := by
  rw [fetchAndRun, h]

theorem runEncoded_decode {e : Encoded} {i : Instr} (h : decode e = .ok i) (s : State) : runEncoded s e = exec i s := by
  rw [runEncoded, h]

theorem fetch_faults {s : State} (hq : NoTrigger s .fetch) (h : FetchFaults s s.pc) :
    fetch s = .raise .instructionAccessFault s.pc := by
  rw [fetch_quiet hq, fetchParcel_faults h, bind_raise]

/-- Settles O16: the parcel that faults ends the fetch with its own address. -/
theorem fetchAccessFaults : Obligations.FetchAccessFaults := by
  refine fun s hq haligned => ⟨fun hf => ?first, fun hr hfull hf => ?second⟩
  case first =>
    rw [fetchAndRun_raise (fetch_faults hq hf)]
    exact takeException_entered haligned .instructionAccessFault s.pc
  case second =>
    have hfetch : fetch s = .raise .instructionAccessFault (s.pc + 2#32) := by
      rw [fetch_quiet hq, fetchParcel_port hr, bind_ok, fetchRest_full hq hfull, fetchParcel_faults hf, bind_raise]
    rw [fetchAndRun_raise hfetch]
    exact takeException_entered haligned .instructionAccessFault (s.pc + 2#32)

/-! ## The trap loop at address 0 (60 section 6) -/

/-- A hart that traps at address 0 to address 0. -/
structure LoopsAtZero (s : State) : Prop where
  running : s.debugMode = false
  awake : s.waiting = false
  unstepped : s.dcsrStep = false
  pc : s.pc = 0#32
  mtvec : s.mtvec = 0#32
  mie : s.mstatusMie = false
  untriggered : NoTrigger s .fetch

/-- What the entry of the instruction access fault at 0 leaves. -/
structure FaultedAtZero (s t : State) : Prop where
  mepc : t.mepc = 0#32
  interrupt : t.mcauseInterrupt = false
  code : t.mcauseCode = 1#10
  mtval : t.mtval = 0#32
  minstret : t.minstret = s.minstret
  x : t.x = s.x
  memory : SameMemory s t

theorem FaultedAtZero.trans {s t u : State} (hst : FaultedAtZero s t) (htu : FaultedAtZero t u) : FaultedAtZero s u where
  mepc := htu.mepc
  interrupt := htu.interrupt
  code := htu.code
  mtval := htu.mtval
  minstret := htu.minstret.trans hst.minstret
  x := htu.x.trans hst.x
  memory a := (htu.memory a).trans (hst.memory a)

theorem noTrigger_passBoundary {s : State} {k : AccessKind} (h : NoTrigger s k) : NoTrigger (passBoundary s) k := by
  simpa [NoTrigger] using h

theorem step_faultsAtZero {s : State} (h : LoopsAtZero s) :
    ∃ t, step s = .next t ∧ LoopsAtZero t ∧ FaultedAtZero s t := by
  have hpc : (passBoundary s).pc = 0#32 := by rw [passBoundary_pc, h.pc]
  have haligned : HandlerAligned (passBoundary s) := handlerAligned_passBoundary (by rw [HandlerAligned, h.mtvec]; rfl)
  have hfaults : FetchFaults (passBoundary s) (passBoundary s).pc := by
    rw [hpc]
    exact .inr (.inr (.inl ⟨Nat.zero_lt_succ _, by rw [passBoundary_debugMode, h.running]⟩))
  have hstep : step s = takeException (passBoundary s) .instructionAccessFault 0#32 := by
    rw [step_eq_afterBoundary h.running h.awake h.unstepped (by rw [h.pc]; rfl),
      afterBoundary_noInterrupt (interruptDecision_mie_clear (by rw [passBoundary_mstatusMie, h.mie])),
      fetchAndRun_raise (fetch_faults (noTrigger_passBoundary h.untriggered) hfaults), hpc]
  obtain ⟨t, ht, he⟩ := takeException_entered haligned .instructionAccessFault 0#32
  refine ⟨t, hstep.trans ht, ?loops, ?faulted⟩
  case loops =>
    rw [he.rest]
    exact ⟨by simpa using h.running, by simpa using h.awake, by simpa using h.unstepped,
      by rw [he.pc, passBoundary_mtvec, h.mtvec]; rfl, by simpa using h.mtvec, he.mie, noTrigger_passBoundary h.untriggered⟩
  case faulted =>
    exact ⟨he.mepc.trans hpc, he.interrupt, he.code, he.mtval, by rw [he.rest]; simp, by rw [he.rest]; simp,
      fun a => (he.memory a).trans (by rw [passBoundary_mem])⟩

theorem core_run_succ {s t : State} (h : step s = .next t) (k : Nat) : core.run (k + 1) s = core.run k t := by
  have hcore : core.step s = .next t := h
  simp only [Host.Core.run, hcore]

theorem run_faultsAtZero {s : State} (h : LoopsAtZero s) (k : Nat) :
    ∃ t, core.run (k + 1) s = .next t ∧ LoopsAtZero t ∧ FaultedAtZero s t := by
  obtain ⟨t, ht, hloop, hfault⟩ := step_faultsAtZero h
  induction k generalizing s t with
  | zero => exact ⟨t, core_run_succ ht 0, hloop, hfault⟩
  | succ k ih =>
    obtain ⟨u, hu, hloop', hfault'⟩ := step_faultsAtZero hloop
    obtain ⟨v, hv, hloopv, hfaultv⟩ := ih hloop u hu hloop' hfault'
    exact ⟨v, (core_run_succ ht (k + 1)).trans hv, hloopv, hfault.trans hfaultv⟩

/-- Settles O17: each step faults at 0 and leaves a hart that will do so again. -/
theorem trapLoopAtZero : Obligations.TrapLoopAtZero := by
  intro s k hdebug hwait hstep hpc hmtvec hmie hq
  obtain ⟨t, ht, hloop, hfault⟩ := run_faultsAtZero ⟨hdebug, hwait, hstep, hpc, hmtvec, hmie, hq⟩ k
  exact ⟨t, ht, hloop.pc, hfault.mepc, hfault.interrupt, hfault.code, hfault.mtval, hfault.minstret, hfault.x,
    hfault.memory⟩

/-! ## A store not yet followed by FENCE.I (20 R170, R172) -/

theorem Memory.getD_readBytes (m : List Host.Cell) (a : Nat) {n j : Nat} (hj : j < n) (b : Byte) :
    (Memory.readBytes m a n).getD j b = Memory.read m (a + j) := by
  induction n generalizing a j with
  | zero => omega
  | succ n ih =>
    cases j with
    | zero => rfl
    | succ j =>
      rw [Memory.readBytes, List.getD_cons_succ, ih (a + 1) (by omega), Nat.add_assoc, Nat.add_comm 1 j]

/-- Of a single store, the byte before it is the old one, wherever it lies. -/
theorem byteBefore_store (m : List Host.Cell) (a c : Nat) (bs : List Byte) :
    byteBefore [⟨a, Memory.readBytes m a bs.length⟩] c (Memory.read (Memory.writeBytes m a bs) c) = Memory.read m c := by
  simp only [byteBefore, List.foldl_cons, List.foldl_nil, StoreUndo.covers, Memory.readBytes_length, Bool.and_eq_true,
    decide_eq_true_eq]
  split
  case isTrue h =>
    rw [Memory.getD_readBytes m a (by omega), Nat.add_sub_cancel' h.1]
  case isFalse h => exact Memory.read_writeBytes_outside bs m a c (by omega)

/-- With one store outstanding, a parcel is fetched as before it or as after it. -/
theorem parcelAt_of_store {t : State} {m : List Host.Cell} {a : Nat} {bs : List Byte}
    (hmem : t.mem = Memory.writeBytes m a bs) (hundo : t.unfenced = [⟨a, Memory.readBytes m a bs.length⟩]) (c : Nat) :
    parcelAt t c = Memory.read m (c + 1) ++ Memory.read m c ∨
      parcelAt t c = Memory.read t.mem (c + 1) ++ Memory.read t.mem c := by
  rw [parcelAt, parcelStores, hundo, List.filter_cons]
  split_ifs with hcovers
  · simp only [List.filter_nil, List.length_singleton]
    rcases Nat.mod_two_eq_zero_or_one (Config.staleParcelDepth t.boundary c) with hdepth | hdepth
    · rw [hdepth]; exact .inr rfl
    · rw [hdepth, List.take_one, List.head?_cons, Option.toList_some, hmem, byteBefore_store, byteBefore_store]
      exact .inl rfl
  · exact .inr rfl

/-- A store instruction that answers a next state has stored to RAM, or leaves memory and the record of stores. -/
theorem storesTo_memory {s t : State} {i : Instr} {a : Word} {w : Size} (hi : StoresTo s i a w)
    (h : exec i s = .next t) :
    (∃ bs : List Byte, t.mem = Memory.writeBytes s.mem a.toNat bs ∧
      t.unfenced = ⟨a.toNat, Memory.readBytes s.mem a.toNat bs.length⟩ :: s.unfenced) ∨
    (t.mem = s.mem ∧ t.unfenced = s.unfenced) := by
  obtain ⟨v, hexec⟩ := storesTo_ends hi
  rw [hexec] at h
  obtain he | ⟨c, tval, -, h⟩ | ⟨-, rfl⟩ := finish_next h
  · obtain ⟨u, hu, ht⟩ := bind_eq_ok he
    cases ht
    obtain ⟨-, -, hregion⟩ := memWrite_ok hu
    obtain ⟨-, -, rfl⟩ | ⟨-, q, hq, rfl⟩ := regionWrite_ok hregion
    · exact .inl ⟨bytesOf v w.bytes, rfl, by rw [bytesOf_length]; rfl⟩
    · obtain ⟨c, m, rfl⟩ := clicWrite_frame hq
      exact .inr ⟨by simp, by simp⟩
  · exact .inr ⟨(quietFrame_takeException h).mem, (quietFrame_takeException h).unfenced⟩
  · exact .inr ⟨rfl, rfl⟩

/-- Settles O18: the record holds the one store, which a fetch misses wholly or sees wholly, and FENCE.I empties it. -/
theorem storeThenFetch : Obligations.StoreThenFetch := by
  refine fun s t i a w hfenced hi h => ⟨fun b => ?_, fun imm rs1 rd => ⟨_, rfl, fun b => parcelAt_of_fenced rfl b⟩⟩
  obtain ⟨bs, hmem, hundo⟩ | ⟨-, hundo⟩ := storesTo_memory hi h
  · rw [hfenced] at hundo
    exact parcelAt_of_store hmem hundo b
  · exact .inr (parcelAt_of_fenced (hundo.trans hfenced) b)

/-! ## The step that runs what stands at the pc (30 R210; 60 R463; 62 R570) -/

theorem passBoundary_eq (s : State) : passBoundary s = { s with
    boundary := s.boundary + 1, inputs := s.inputs.tail, meipWire := (passBoundary s).meipWire,
    lintWires := (passBoundary s).lintWires, mtime := (passBoundary s).mtime } := by
  cases h : s.inputs with
  | nil => simp [passBoundary, h]
  | cons b rest => simp [passBoundary, h]

theorem passBoundary_of_no_input {s : State} (h : s.inputs = []) :
    passBoundary s = { s with boundary := s.boundary + 1 } := by
  simp [passBoundary, h]

/-- What the decoder takes from four bytes is the instruction in their first parcel, or in both. -/
theorem decode_of_decodeBytes {b0 b1 b2 b3 : Byte} {i : Instr} {rest : List Byte}
    (h : decodeBytes [b0, b1, b2, b3] = .ok (i, rest)) :
    (parcelIsFull (b1 ++ b0) = true ∧ decode (.full ((b3 ++ b2) ++ (b1 ++ b0))) = .ok i) ∨
    (parcelIsFull (b1 ++ b0) = false ∧ decode (.half (b1 ++ b0)) = .ok i) := by
  have hassoc : (b3 ++ b2) ++ (b1 ++ b0) = b3 ++ b2 ++ b1 ++ b0 := by
    rw [BitVec.append_assoc', BitVec.cast_eq]
  rw [hassoc]
  simp only [decodeBytes] at h
  split at h
  case isTrue hfull =>
    refine .inl ⟨hfull, ?_⟩
    cases hd : decode32 (b3 ++ b2 ++ b1 ++ b0) with
    | ok j => rw [hd] at h; cases h; exact hd
    | error err => rw [hd] at h; cases h
  case isFalse hhalf =>
    refine .inr ⟨by simpa using hhalf, ?_⟩
    cases hd : decode16 (b1 ++ b0) with
    | ok j => rw [hd] at h; cases h; exact hd
    | error err => rw [hd] at h; cases h

/-- Where memory holds an instruction at the pc, and nothing is outstanding, the fetch gives it. -/
theorem fetch_decodes {s : State} {i : Instr} {rest : List Byte} (hq : NoTrigger s .fetch) (hfenced : s.unfenced = [])
    (hr : ReadablePort s s.pc) (hr2 : (encode i).length = 4 → ReadablePort s (s.pc + 2#32))
    (h : decodeBytes (Memory.readBytes s.mem s.pc.toNat 4) = .ok (i, rest)) :
    ∃ e, fetch s = .ok e ∧ decode e = .ok i := by
  have hparcel := parcelAt_of_fenced hfenced s.pc.toNat
  rw [fetch_quiet hq, fetchParcel_port hr, bind_ok, hparcel]
  obtain ⟨hfull, hd⟩ | ⟨hhalf, hd⟩ := decode_of_decodeBytes h
  · have hlength : (encode i).length = 4 := by rw [(encodeDecode _ _ hd).2]; rfl
    have hpc : (s.pc + 2#32).toNat = s.pc.toNat + 2 := by
      have := hr.1.2
      rw [BitVec.toNat_add]
      exact Nat.mod_eq_of_lt (by simp only [BitVec.toNat_ofNat]; omega)
    refine ⟨_, ?_, hd⟩
    rw [fetchRest_full hq hfull, fetchParcel_port (hr2 hlength), bind_ok, parcelAt_of_fenced hfenced, hpc]
  · exact ⟨_, fetchRest_half s hhalf, hd⟩

/-- A step that takes no interrupt is, but for single step, the instruction that the fetch gives. -/
theorem step_eq_singleStep_exec {s : State} {e : Encoded} {i : Instr} (hdebug : s.debugMode = false)
    (hwait : s.waiting = false) (hpc : s.pc.getLsbD 0 = false)
    (hno : interruptDecision (passBoundary s) = .noInterrupt) (hf : fetch (passBoundary s) = .ok e)
    (hd : decode e = .ok i) : step s = singleStep s (exec i (passBoundary s)) := by
  rw [← runEncoded_decode hd, ← fetchAndRun_ok hf, ← afterBoundary_noInterrupt hno, step, hdebug, hpc, hwait]
  rfl

/-- Settles O57: the boundary by what the environment delivers, then the fetch of the bytes at the pc. -/
theorem stepRunsDecoded : Obligations.StepRunsDecoded := by
  refine ⟨fun s => ⟨passBoundary_eq s, passBoundary_of_no_input⟩, ?_⟩
  intro s i rest hdebug hwait hpc hno hq hfenced hr hr2 h _
  have hport {a : Word} (ha : ReadablePort s a) : ReadablePort (passBoundary s) a := by
    simpa [ReadablePort] using ha
  obtain ⟨e, hf, hd⟩ := fetch_decodes (s := passBoundary s) (i := i) (rest := rest) (noTrigger_passBoundary hq)
    (by rw [passBoundary_unfenced, hfenced]) (by rw [passBoundary_pc]; exact hport hr)
    (fun hlength => by rw [passBoundary_pc]; exact hport (hr2 hlength))
    (by rw [passBoundary_mem, passBoundary_pc, h])
  rw [step_eq_singleStep_exec hdebug hwait hpc hno hf hd]
  refine ⟨fun hstep => singleStep_off hstep _, fun hstep t ht hmode => ⟨enterDebug t, ?_, rfl⟩⟩
  rw [ht, singleStep, if_pos hstep]
  simp [hmode]

end Sys2Proof.Machine
end

section
/-! SUPPORT. Trap entry, the return from it, and the system instructions that enter or leave a trap, debug mode or a wait
(spec/60_exceptions.md R440 to R448, R470; spec/43_system_and_csr.md R311 to R318; spec/62_debug.md R570 to R572). -/

namespace Sys2Proof.Machine

/-! ## Interrupt entry in the CLIC modes (60 R440, R446 to R448) -/

/-- An interrupt that is not hardware-vectored goes to the common handler. -/
theorem takeInterrupt_common {s : State} (haligned : HandlerAligned s) (hmode : clicMode s = true) {id : Nat}
    (hvec : hardwareVectored s id = false) (hid : id < 1024) :
    ∃ t, takeInterrupt s id = .next t ∧ InterruptEntered s t id ∧ t.pc = trapBase s := by
  refine ⟨{ saveInterrupt s id with pc := trapBase s }, ?_, saveInterrupt_entered hid (.inl rfl), rfl⟩
  exact (if_pos haligned).trans ((if_pos hmode).trans (if_neg (by simp [hvec])))

/-- A hardware-vectored one goes where its table entry says, bit 0 cleared. -/
theorem takeInterrupt_vectored {s : State} (haligned : HandlerAligned s) (hmode : clicMode s = true) {id : Nat}
    (hvec : hardwareVectored s id = true) {a : Word} (ha : readTable s id = .ok a) (hid : id < 1024) :
    ∃ t, takeInterrupt s id = .next t ∧ InterruptEntered s t id ∧ t.mcauseMinhv = false ∧ t.pc = clearBit0 a := by
  refine ⟨{ saveInterrupt s id with mcauseMinhv := false, pc := clearBit0 a }, ?_,
    saveInterrupt_entered hid (.inr rfl), rfl, rfl⟩
  exact (if_pos haligned).trans ((if_pos hmode).trans ((if_pos hvec).trans (by rw [ha])))

/-- A table base with zeros below is the register itself. -/
theorem tableEntry_of_aligned {s : State} (h : s.mtvt.toNat % 64 = 0) (id : Nat) :
    tableEntry s id = s.mtvt + BitVec.ofNat 32 (4 * id) := by
  have hbase : s.mtvt &&& 0xFFFFFFC0#32 = s.mtvt := by
    have hmask : 0xFFFFFFC0#32 = BitVec.allOnes 32 <<< 6 := by decide
    rw [hmask, ← BitVec.shiftLeft_ushiftRight]
    apply BitVec.eq_of_toNat_eq
    have := s.mtvt.isLt
    rw [BitVec.toNat_shiftLeft, BitVec.toNat_ushiftRight, Nat.shiftLeft_eq, Nat.shiftRight_eq_div_pow]
    omega
  rw [tableEntry, hbase]

theorem mtvt_lowBits {s : State} (h : s.mtvt.toNat % 64 = 0) : s.mtvt.extractLsb' 0 6 = 0#6 := by
  apply BitVec.eq_of_toNat_eq
  rw [BitVec.extractLsb'_toNat, Nat.shiftRight_zero]
  exact h

theorem readTable_port {s : State} {id : Nat} (h : s.mtvt.toNat % 64 = 0) (hr : ReadablePort s (tableEntry s id)) :
    readTable s id = .ok (ofBytes (Memory.readBytes s.mem (tableEntry s id).toNat 4)) := by
  rw [readTable, if_pos (mtvt_lowBits h), regionOf_inPort hr.1]
  rcases hr.2 with hb | hb <;> simp [hb]

/-- Settles O26: the saved state is that of one entry, and the pc by the mode and the vectoring. -/
theorem trapEntry : Obligations.TrapEntry := by
  refine fun s haligned => ⟨takeException_entered haligned, fun id hid => ⟨fun hmode => ?basic, fun hmode hvec => ?common,
    fun a hmode hvec hmtvt ha hr => ?vectored⟩⟩
  case basic =>
    obtain ⟨t, ht, he, hpc⟩ := takeInterrupt_basic haligned hmode (id := id) (by omega)
    exact ⟨t, ht, he, by rw [hpc, toNat_basicTarget]⟩
  case common =>
    obtain ⟨t, ht, he, hpc⟩ := takeInterrupt_common haligned hmode hvec (by omega)
    exact ⟨t, ht, he, by rw [hpc, toNat_trapBase]⟩
  case vectored =>
    rw [← tableEntry_of_aligned hmtvt] at ha
    subst ha
    obtain ⟨t, ht, he, hminhv, hpc⟩ := takeInterrupt_vectored haligned hmode hvec (readTable_port hmtvt hr) (by omega)
    exact ⟨t, ht, he, hminhv, by rw [hpc, ofBytes_readBytes_four]; rfl⟩

/-! ## MRET (43 R316; 60 R449, R470) -/

theorem execMret_minhv {s : State} (hmode : clicMode s = true) (h : s.mcauseMinhv = true) :
    execMret s = .refused .mretMinhv := by
  rw [execMret, if_pos (by simp [hmode, h])]

theorem execMret_illegal {s : State} (h : ¬ (clicMode s = true ∧ s.mcauseMinhv = true)) (hcause : causeLegal s = false) :
    execMret s = .refused .mcauseCodeIllegal := by
  rw [execMret, if_neg (by simpa using h), if_neg (by simp [hcause])]

theorem execMret_legal {s : State} (h : ¬ (clicMode s = true ∧ s.mcauseMinhv = true)) (hcause : causeLegal s = true) :
    execMret s = .next (retire (trapReturn s) s.mepc) := by
  rw [execMret, if_neg (by simpa using h), if_pos hcause]

/-- Settles O27: by `minhv` and by the legality of the cause. -/
theorem mretRestores : Obligations.MretRestores :=
  ⟨rfl, fun _ => ⟨execMret_minhv, execMret_illegal, fun h hcause => ⟨_, execMret_legal h hcause, rfl, rfl, rfl, rfl,
    SameMemory.rfl' _ _ rfl, rfl⟩⟩⟩

/-! ## A trap followed by MRET (60 sections 3 and 6) -/

/-- The codes of the exceptions are legal causes. -/
theorem legalCause_exception (p : Params) (c : ExceptionCause) : legalCause p false c.code = true := by
  cases c <;> rfl

theorem legalCause_interrupt {p : Params} {id : Nat} (h : implementedId p id = true) :
    legalCause p true (BitVec.ofNat 10 id) = true := by
  have htop := (lintTopId_bounds p).2
  have hid : id < 1024 := by
    simp only [implementedId, Bool.or_eq_true, beq_iff_eq, Bool.and_eq_true, decide_eq_true_eq] at h
    omega
  rw [legalCause, if_pos rfl, BitVec.toNat_ofNat, Nat.mod_eq_of_lt hid, h]

/-- Setting MPIE sets its bit of `mstatus`. -/
theorem mstatusRead_mpie {s u : State} (hmie : u.mstatusMie = s.mstatusMie) (hmpie : u.mstatusMpie = true) :
    mstatusRead u = mstatusRead s ||| 0x80#32 := by
  rw [mstatusRead, mstatusRead, hmie, hmpie]
  cases s.mstatusMie <;> cases s.mstatusMpie <;> decide

/-- What MRET gives back after a trap that saved the state of `s`. -/
theorem mret_resumes {s t : State} (hmode : clicMode t = clicMode s) (hminhv : t.mcauseMinhv = false)
    (hcause : causeLegal t = true) (hmepc : t.mepc = s.pc) (hmpie : t.mstatusMpie = s.mstatusMie)
    (hlevel : (if clicMode s then t.mcauseMpil else t.mil) = s.mil) (hx : t.x = s.x) (hmem : t.mem = s.mem) :
    ∃ u, exec .mret t = .next u ∧ u.pc = s.pc ∧ u.mstatusMie = s.mstatusMie ∧ u.mil = s.mil ∧ u.x = s.x ∧
      SameMemory s u ∧ csrRead u .mstatus = csrRead s .mstatus ||| 0x80#32 :=
  ⟨_, execMret_legal (by simp [hminhv]) hcause, hmepc, hmpie, by rw [retire_mil, trapReturn_mil, hmode, hlevel], hx,
    SameMemory.rfl' _ _ hmem, mstatusRead_mpie hmpie rfl⟩

/-- Settles O28: both entries save pc, MIE and level, and leave a legal cause and `minhv` = 0. -/
theorem trapThenMretResumes : Obligations.TrapThenMretResumes := by
  refine fun s haligned hminhv => ⟨fun c tval => ?exception, fun id t hid ht => ?interrupt⟩
  case exception =>
    obtain ⟨u, hu⟩ := mret_resumes (s := s) (t := { saveTrap s false c.code tval with pc := trapBase s }) rfl hminhv
      (legalCause_exception _ _) rfl rfl (by simp only [saveTrap]; split <;> rfl) rfl rfl
    exact ⟨_, u, if_pos haligned, hu⟩
  case interrupt =>
    have hlevel : (if clicMode s then (saveInterrupt s id).mcauseMpil else (saveInterrupt s id).mil) = s.mil := by
      simp only [saveInterrupt, saveTrap]
      split <;> rfl
    obtain ⟨-, ⟨-, rfl⟩ | ⟨-, -, rfl⟩ | ⟨-, -, a, -, rfl⟩⟩ := takeInterrupt_next ht
    · exact mret_resumes rfl hminhv (legalCause_interrupt hid) rfl rfl hlevel rfl rfl
    · exact mret_resumes rfl hminhv (legalCause_interrupt hid) rfl rfl hlevel rfl rfl
    · exact mret_resumes rfl rfl (legalCause_interrupt hid) rfl rfl hlevel rfl rfl

/-! ## EBREAK and DRET (43 R313, R318; 45 R385) -/

theorem takeBreakpoint_exception {s : State} (h : s.dcsrEbreakm = false) :
    takeBreakpoint s = takeException s .breakpoint (ebreakTval s) := by
  rw [takeBreakpoint, if_neg (by simp [h])]

theorem takeBreakpoint_debug {s : State} (h : s.dcsrEbreakm = true) : takeBreakpoint s = .next (enterDebug s) :=
  if_pos h

theorem ebreakTval_cases (s : State) : ebreakTval s = s.pc ∨ ebreakTval s = 0#32 := by
  unfold ebreakTval
  split
  · exact .inl rfl
  · exact .inr rfl

/-- Settles O22: both instructions are the one breakpoint, by `ebreakm`. -/
theorem ebreakTraps : Obligations.EbreakTraps := by
  refine ⟨rfl, rfl, fun s => ⟨fun hm haligned => ?exception, fun hm => ?debug⟩⟩
  case exception =>
    have hentered := takeException_entered haligned .breakpoint (ebreakTval s)
    rw [← takeBreakpoint_exception hm] at hentered
    exact ⟨_, ebreakTval_cases s, hentered, hentered⟩
  case debug => exact ⟨⟨_, takeBreakpoint_debug hm, rfl⟩, ⟨_, takeBreakpoint_debug hm, rfl⟩⟩

/-- Settles O23: by the mode; outside debug mode the trap value is that of its own bits. -/
theorem dretOutcome : Obligations.DretOutcome := by
  refine ⟨rfl, fun s => ⟨fun hmode haligned => ?illegal, fun hmode => ?resumes⟩⟩
  case illegal =>
    have hexec : exec .dret s = takeIllegal s 0x7B200073#32 := if_neg (by simp [hmode])
    obtain ⟨t, tval, ht, htval, he⟩ := takeIllegal_entered haligned 0x7B200073#32
    exact ⟨tval, htval, t, hexec.trans ht, he⟩
  case resumes => exact ⟨_, if_pos hmode, toNat_clearBit0 s.dpc, SameMemory.rfl' _ _ rfl, rfl⟩

end Sys2Proof.Machine
end

section
/-! SUPPORT. The sources of the pending bits, what the interrupt logic may see of them, and the wait for an interrupt
(spec/60_exceptions.md R421, R483; spec/61_clic.md R506 to R511; spec/20_memory.md R161; spec/43_system_and_csr.md R311,
R317). -/

namespace Sys2Proof.Machine

/-! ## Implemented interrupts and pending bits (60 R421; 61 R511) -/

theorem implementedId_iff (p : Params) (id : Nat) : implementedId p id = true ↔
    id = 3 ∨ id = 7 ∨ id = 11 ∨ id = 12 ∨ (16 ≤ id ∧ id ≤ 47) ∨ (id = 48 ∧ p.lint32 = true) := by
  cases h : p.lint32 with
  | true => simp [implementedId, lintTopId, h]; omega
  | false => simp [implementedId, lintTopId, h]; omega

theorem le_lintTopId_of_implementedId {p : Params} {id : Nat} (h : implementedId p id = true) : id ≤ lintTopId p := by
  rw [implementedId_iff] at h
  have := (lintTopId_bounds p).1
  obtain rfl | rfl | rfl | rfl | h | h := h
  case inr.inr.inr.inr.inr => exact le_lintTopId (.inr h)
  all_goals omega

/-- Reserved interrupts are never pending. -/
theorem pendingOf_of_reserved {p : Params} {id : Nat} {s : State} (hp : s.params = p) (h : implementedId p id = false)
    (msip csip : Bool) (mtimecmp : BitVec 64) : pendingOf s msip csip mtimecmp id = false := by
  have hid : ∀ k, implementedId p k = true → id ≠ k := by
    rintro k hk rfl
    rw [h] at hk
    cases hk
  rw [pendingOf, if_neg (hid 3 rfl), if_neg (hid 7 rfl), if_neg (hid 11 rfl), if_neg (hid 12 rfl), hp, h]
  rfl

theorem implementedId_of_pendingNow {s : State} {id : Nat} (h : pendingNow s id = true) :
    implementedId s.params id = true := by
  by_contra hno
  rw [pendingNow, pendingOf_of_reserved rfl (Bool.eq_false_of_not_eq_true hno)] at h
  cases h

/-! ## What the interrupt logic sees (20 R161) -/

theorem clicSeen_current {s : State} (h : s.clicOld = []) (k : Nat) : clicSeen s k = s.clic := by
  rw [clicSeen, h]

theorem clicSeen_cases (s : State) (k : Nat) : clicSeen s k = s.clic ∨ clicSeen s k ∈ s.clicOld := by
  unfold clicSeen
  split
  case h_1 => exact .inl rfl
  case h_2 =>
    rw [← List.mem_cons, List.getD_eq_getElem _ _ (by simpa using Nat.mod_lt _ (Nat.succ_pos _))]
    exact List.getElem_mem _

theorem pendingSeen_current {s : State} (h : s.clicOld = []) (id : Nat) : pendingSeen s id = pendingNow s id := by
  rw [pendingSeen, seenMtimecmp, clicSeen_current h, clicSeen_current h, clicSeen_current h, pendingNow]

theorem pendingSeen_timer (s : State) :
    pendingSeen s 7 = true ↔ (clicSeen s 148).mtimecmp.toNat ≤ s.mtime.toNat := decide_eq_true_iff

theorem pendingNow_timer (s : State) : pendingNow s 7 = true ↔ s.clic.mtimecmp.toNat ≤ s.mtime.toNat :=
  decide_eq_true_iff

/-- The local interrupts are the wires. -/
theorem pendingNow_local (s : State) {k : Nat} (hk : k < 32) : pendingNow s (16 + k) = s.lintWires.getLsbD k := by
  have := (lintTopId_bounds s.params).1
  rw [pendingNow_of_le (by omega), if_neg (by omega), if_neg (by omega), if_neg (by omega), if_neg (by omega),
    decide_eq_true (by omega), Bool.true_and, Nat.add_sub_cancel_left]

/-- Interrupt 48 has an input exactly where it is implemented. -/
theorem pendingNow_top (s : State) : pendingNow s 48 = (s.params.lint32 && s.lintWires.getLsbD 32) := by
  cases hp : s.params.lint32 with
  | true => rw [pendingNow_of_le (le_lintTopId (.inr ⟨rfl, hp⟩))]; rfl
  | false => exact pendingOf_of_reserved rfl (by simp [implementedId, lintTopId, hp]) _ _ _

/-- Settles O40: a register is seen with one of the values it has had, and with no older one kept it is the current
one. -/
theorem pendingSources : Obligations.PendingSources := by
  refine ⟨clicSeen_cases, fun s => ⟨clicSeen s 148, clicSeen_cases s 148, pendingSeen_timer s⟩, fun s hold => ?_⟩
  simp only [pendingSeen_current hold]
  exact ⟨rfl, pendingNow_timer s, rfl, rfl, fun k hk => pendingNow_local s hk, pendingNow_top s,
    fun id h => pendingOf_of_reserved rfl h _ _ _, implementedId_iff s.params,
    fun id => by rw [enabledSeen, clicSeen_current hold]⟩

/-! ## The wait for an interrupt (43 R317; 60 R483) -/

/-- Three bits of `mip` and of `mie` meet where both are set. -/
theorem threeBits_and_ne_zero : ∀ e3 e7 e11 p3 p7 p11 : Bool,
    ((e3 && p3) || (e7 && p7) || (e11 && p11)) = true ↔
      (bitAt p3 3 ||| bitAt p7 7 ||| bitAt p11 11) &&& (bitAt e3 3 ||| bitAt e7 7 ||| bitAt e11 11) ≠ 0#32 := by
  decide

theorem wakeUp_basic {s : State} (hmode : clicMode s = false) :
    wakeUp s = true ↔ csrRead s .mip &&& csrRead s .mie ≠ 0#32 := by
  rw [wakeUp, if_neg (by simp [hmode]), csrRead, csrRead, mipRead, if_neg (by simp [hmode]), mieRead_basic hmode]
  exact threeBits_and_ne_zero _ _ _ _ _ _

theorem wakeUp_clic {s : State} (hmode : clicMode s = true) :
    wakeUp s = true ↔ ∃ id, pendingNow s id = true ∧ s.clic.ie.getLsbD id = true := by
  rw [wakeUp, if_pos hmode, List.any_eq_true]
  simp only [List.mem_range, Bool.and_eq_true]
  constructor
  · rintro ⟨id, -, h⟩; exact ⟨id, h⟩
  · rintro ⟨id, h⟩
    exact ⟨id, Nat.lt_succ_of_le (le_lintTopId_of_implementedId (implementedId_of_pendingNow h.1)), h⟩

theorem wakeUp_iff (s : State) : wakeUp s = true ↔
    (clicMode s = false ∧ csrRead s .mip &&& csrRead s .mie ≠ 0#32) ∨
      (clicMode s = true ∧ ∃ id, pendingNow s id = true ∧ s.clic.ie.getLsbD id = true) := by
  cases hmode : clicMode s with
  | false => simp [wakeUp_basic hmode]
  | true => simp [wakeUp_clic hmode]

/-- A step of a waiting hart is the boundary and then WFI again. -/
theorem step_eq_resumeWfi {s : State} (hdebug : s.debugMode = false) (hwait : s.waiting = true)
    (hstep : s.dcsrStep = false) (hpc : s.pc.getLsbD 0 = false) : step s = resumeWfi (passBoundary s) := by
  rw [step, hdebug, hpc, hwait]
  exact singleStep_off hstep _

/-- A waiting hart that does not retire stays as it is. -/
theorem resumeWfi_stays {b : State} (hwait : b.waiting = true) (h : wfiRetires b = false) : resumeWfi b = .next b := by
  have hb : { b with waiting := true } = b := by rw [← hwait]
  rw [resumeWfi, if_neg (by simp [h]), afterWfi, if_neg (by simp [h]), hb]

theorem resumeWfi_noInterrupt {b : State} (h : wfiRetires b = true)
    (hd : interruptDecision (afterWfi b) = .noInterrupt) : resumeWfi b = .next (afterWfi b) := by
  rw [resumeWfi, if_pos h, hd]

theorem resumeWfi_take {b : State} {id : Nat} (h : wfiRetires b = true)
    (hd : interruptDecision (afterWfi b) = .take id) : resumeWfi b = takeInterrupt (afterWfi b) id := by
  rw [resumeWfi, if_pos h, hd]

/-- Settles O20: FENCE.I by its effect, WFI by whether it retires, and the wake-up by the decision after retiring. -/
theorem fenceIAndWfi : Obligations.FenceIAndWfi := by
  refine fun s imm rs1 rd => ⟨decode_fenceI imm rs1 rd, ⟨_, rfl, rfl, rfl, SameMemory.rfl' _ _ rfl⟩, rfl, wakeUp_iff s,
    ⟨afterWfi s, rfl, ?wfi⟩, ?resume⟩
  case wfi =>
    obtain ⟨-, h⟩ | ⟨hwake, h⟩ := afterWfi_cases s
    · rw [h]; exact ⟨SameMemory.rfl' _ _ rfl, .inl rfl⟩
    · rw [h]; exact ⟨SameMemory.rfl' _ _ rfl, .inr ⟨hwake, rfl⟩⟩
  case resume =>
    rintro b r hwait hdebug hstep hpc rfl rfl hwake
    have hresume := step_eq_resumeWfi hdebug hwait hstep hpc
    have hretires : wfiRetires (passBoundary s) = true := by
      obtain hwake | hmoved := hwake
      · simp [wfiRetires, hwake]
      · by_contra hstays
        exact hmoved (hresume.trans (resumeWfi_stays (by rw [passBoundary_waiting, hwait])
          (Bool.eq_false_of_not_eq_true hstays)))
    have hafter : afterWfi (passBoundary s) =
        retire { passBoundary s with waiting := false } ((passBoundary s).pc + 4#32) := if_pos hretires
    rw [hresume, ← passBoundary_pc s, ← passBoundary_minstret s]
    refine ⟨fun hd => ?_, fun id hd => ?_⟩
    · exact (resumeWfi_noInterrupt hretires (by rw [hafter]; exact hd)).trans (by rw [hafter]; rfl)
    · exact (resumeWfi_take hretires (by rw [hafter]; exact hd)).trans (by rw [hafter]; rfl)

end Sys2Proof.Machine
end

section
/-! SUPPORT. The winner among the pending and enabled interrupts, and the interrupt taken in the CLIC modes
(spec/60_exceptions.md R460, R461). -/

namespace Sys2Proof.Machine

/-! ## The order by level, priority and ID (60 R461) -/

theorem mem_pendingEnabled {s : State} {id : Nat} : id ∈ pendingEnabled s ↔
    implementedId s.params id = true ∧ pendingSeen s id = true ∧ enabledSeen s id = true := by
  rw [pendingEnabled, List.mem_filter, List.mem_range, Bool.and_eq_true, Bool.and_eq_true, and_assoc]
  exact ⟨fun h => h.2, fun h => ⟨Nat.lt_succ_of_le (le_lintTopId_of_implementedId h.1), h⟩⟩

theorem pendingEnabled_rising (s : State) : (pendingEnabled s).Pairwise (· < ·) :=
  List.pairwise_lt_range.filter _

/-- `id` comes before `w`, or is it, by rank and then by ID. -/
def RankedBelow (s : State) (id w : Nat) : Prop :=
  rankSeen s id < rankSeen s w ∨ (rankSeen s id = rankSeen s w ∧ id ≤ w)

theorem RankedBelow.refl (s : State) (w : Nat) : RankedBelow s w w := .inr ⟨rfl, le_rfl⟩

theorem RankedBelow.trans {s : State} {a b c : Nat} (hab : RankedBelow s a b) (hbc : RankedBelow s b c) :
    RankedBelow s a c := by
  unfold RankedBelow at *
  omega

theorem RankedBelow.antisymm {s : State} {a b : Nat} (hab : RankedBelow s a b) (hba : RankedBelow s b a) : a = b := by
  unfold RankedBelow at *
  omega

theorem priorityOf_lt (nv : Bool) (n : BitVec 4) (c : BitVec 2) : priorityOf nv n c < 4 := by
  have hc := c.isLt
  cases h : shvBitLeftOut nv with
  | true => rw [priorityOf_leftOut h]; split <;> omega
  | false => rw [priorityOf_kept h]; split_ifs <;> omega

/-- The rank orders by level first, then by priority. -/
theorem rankedBelow_iff (s : State) (id w : Nat) : RankedBelow s id w ↔
    levelSeen s id < levelSeen s w ∨ (levelSeen s id = levelSeen s w ∧
      (priorityOf (nvbitsSeen s) (nlbitsSeen s) (cfgSeen s id) <
          priorityOf (nvbitsSeen s) (nlbitsSeen s) (cfgSeen s w) ∨
        (priorityOf (nvbitsSeen s) (nlbitsSeen s) (cfgSeen s id) =
          priorityOf (nvbitsSeen s) (nlbitsSeen s) (cfgSeen s w) ∧ id ≤ w))) := by
  have hid := priorityOf_lt (nvbitsSeen s) (nlbitsSeen s) (cfgSeen s id)
  have hw := priorityOf_lt (nvbitsSeen s) (nlbitsSeen s) (cfgSeen s w)
  rw [RankedBelow, rankSeen, rankSeen, BitVec.lt_def, BitVec.toNat_eq]
  omega

/-- Of rising IDs, the one kept is one of them and comes after all. -/
theorem foldl_betterOf (s : State) (b : Nat) (ids : List Nat) (h : (b :: ids).Pairwise (· < ·)) :
    ∃ w, ids.foldl (betterOf s) (some b) = some w ∧ w ∈ b :: ids ∧ ∀ id ∈ b :: ids, RankedBelow s id w := by
  induction ids generalizing b with
  | nil => exact ⟨b, rfl, by simp, fun id hid => by rw [List.mem_singleton.1 hid]; exact .refl s b⟩
  | cons c ids ih =>
    obtain ⟨hb, hrest⟩ := List.pairwise_cons.1 h
    have hbc : b < c := hb c (by simp)
    rw [List.foldl_cons]
    by_cases hrank : rankSeen s b ≤ rankSeen s c
    · have hbetter : betterOf s (some b) c = some c := if_pos hrank
      obtain ⟨w, hw, hmem, hall⟩ := ih c hrest
      refine ⟨w, by rw [hbetter, hw], List.mem_cons_of_mem _ hmem, fun id hid => ?_⟩
      obtain rfl | hid := List.mem_cons.1 hid
      · exact RankedBelow.trans (by unfold RankedBelow; omega) (hall c (by simp))
      · exact hall id hid
    · have hbetter : betterOf s (some b) c = some b := if_neg hrank
      obtain ⟨w, hw, hmem, hall⟩ := ih b (List.pairwise_cons.2
        ⟨fun id hid => hb id (List.mem_cons_of_mem _ hid), (List.pairwise_cons.1 hrest).2⟩)
      refine ⟨w, by rw [hbetter, hw], ?_, fun id hid => ?_⟩
      · obtain rfl | hmem := List.mem_cons.1 hmem
        · simp
        · simp [hmem]
      · obtain rfl | hid := List.mem_cons.1 hid
        · exact hall _ (by simp)
        · obtain rfl | hid := List.mem_cons.1 hid
          · exact RankedBelow.trans (.inl (by omega)) (hall b (by simp))
          · exact hall id (List.mem_cons_of_mem _ hid)

/-- There is no winner, and nothing is pending and enabled, or the winner comes after all others. -/
theorem winner_cases (s : State) : (winner s = none ∧ pendingEnabled s = []) ∨
    ∃ w, winner s = some w ∧ w ∈ pendingEnabled s ∧ ∀ id ∈ pendingEnabled s, RankedBelow s id w := by
  have hrising := pendingEnabled_rising s
  unfold winner
  cases h : pendingEnabled s with
  | nil => exact .inl ⟨rfl, rfl⟩
  | cons b ids => rw [h] at hrising; exact .inr (foldl_betterOf s b ids hrising)

/-- Settles O43: the one kept comes after all others, and only one can. -/
theorem winnerIsGreatest : Obligations.WinnerIsGreatest := by
  intro s P prio hP hprio
  have hmem (id : Nat) : P id ↔ id ∈ pendingEnabled s := (hP id).trans mem_pendingEnabled.symm
  have hbelow (id w : Nat) : (levelSeen s id < levelSeen s w ∨ (levelSeen s id = levelSeen s w ∧
      (prio id < prio w ∨ (prio id = prio w ∧ id ≤ w)))) ↔ RankedBelow s id w := by
    rw [hprio, hprio, rankedBelow_iff]
  simp only [hmem, hbelow]
  obtain ⟨hnone, hnil⟩ | ⟨w, hw, hin, hall⟩ := winner_cases s
  · simp [hnone, hnil]
  · refine ⟨?none, fun v => ⟨?kept, ?only⟩⟩
    case none => exact ⟨fun h => absurd (hw.symm.trans h) (by simp), fun h => absurd hin (h w)⟩
    case kept =>
      intro hv
      obtain rfl : w = v := Option.some.inj (hw.symm.trans hv)
      exact ⟨hin, hall⟩
    case only =>
      rintro ⟨hvin, hvall⟩
      rw [hw, (hvall w hin).antisymm (hall v hvin)]

theorem implementedId_of_winner {s : State} {w : Nat} (h : winner s = some w) : implementedId s.params w = true := by
  obtain ⟨hnone, -⟩ | ⟨v, hv, hin, -⟩ := winner_cases s
  · rw [h] at hnone; cases hnone
  · obtain rfl : v = w := Option.some.inj (hv.symm.trans h)
    exact (mem_pendingEnabled.1 hin).1

theorem winner_lt {s : State} {w : Nat} (h : winner s = some w) : w < 1024 := by
  have htop := le_lintTopId_of_implementedId (implementedId_of_winner h)
  have := (lintTopId_bounds s.params).2
  omega

/-! ## The decision in the CLIC modes (60 R460) -/

theorem clicDecision_take {s : State} {w : Nat} (hw : winner s = some w) (hn : nlbitsSeen s ≤ 2#4)
    (hlevel : s.mil < levelSeen s w) : clicDecision s = .take w := by
  simp only [clicDecision, hw, if_neg (BitVec.not_lt.2 hn), if_pos hlevel]

theorem clicDecision_noInterrupt {s : State} (hn : nlbitsSeen s ≤ 2#4)
    (h : winner s = none ∨ ∃ w, winner s = some w ∧ levelSeen s w ≤ s.mil) : clicDecision s = .noInterrupt := by
  obtain hnone | ⟨w, hw, hlevel⟩ := h
  · simp only [clicDecision, hnone]
  · simp only [clicDecision, hw, if_neg (BitVec.not_lt.2 hn), if_neg (BitVec.not_lt.2 hlevel)]

/-- Settles O42: by the decision, which compares the winner's level with the current one. -/
theorem clicInterrupts : Obligations.ClicInterrupts := by
  rintro s b rfl hdebug hwait hstep hpc haligned hmode hn
  have hmode' : clicMode (passBoundary s) = true := by rw [clicMode_passBoundary, hmode]
  have hafter := step_eq_afterBoundary hdebug hwait hstep hpc
  have htake {w : Nat} (hw : winner (passBoundary s) = some w) (hmie : s.mstatusMie = true)
      (hlevel : s.mil < levelSeen (passBoundary s) w) : step s = takeInterrupt (passBoundary s) w := by
    rw [hafter, afterBoundary_take]
    rw [interruptDecision_clic (by rw [passBoundary_mstatusMie, hmie]) hmode']
    exact clicDecision_take hw hn (by rw [passBoundary_mil]; exact hlevel)
  refine ⟨fun w => htake, fun w hw hmie hlevel hvec => ?common, fun hno => ?runs⟩
  case common =>
    obtain ⟨t, ht, he, htpc⟩ :=
      takeInterrupt_common (handlerAligned_passBoundary haligned) hmode' hvec (winner_lt hw)
    refine ⟨t, (htake hw hmie hlevel).trans ht, he, ?_, ?_⟩
    · rw [htpc, toNat_trapBase, passBoundary_mtvec]
    · rw [he.mil, if_pos hmode']; exact hlevel
  case runs =>
    rw [hafter, afterBoundary_noInterrupt]
    cases hmie : s.mstatusMie with
    | false => exact interruptDecision_mie_clear (by rw [passBoundary_mstatusMie, hmie])
    | true =>
      rw [interruptDecision_clic (by rw [passBoundary_mstatusMie, hmie]) hmode']
      refine clicDecision_noInterrupt hn ?_
      rw [passBoundary_mil]
      exact hno.resolve_left (by simp [hmie])

end Sys2Proof.Machine
end

section
/-! SUPPORT. The CSRs that hold what is written, those that ignore writes, and the counters (spec/10_state.md sections
5.2, 5.4, 5.5 and 5.7; spec/43_system_and_csr.md R320 to R329). -/

namespace Sys2Proof.Machine

/-! ## Accesses that pass the checks -/

/-- A register write and the retirement on top of changes that leave registers, memory and count. -/
theorem csrCompletes_retire {s u : State} {rd : Reg} {v : Word} {P : Word → Prop} (hx : u.x = s.x)
    (hmem : u.mem = s.mem) (hcount : u.minstret = s.minstret) (hP : P v) :
    CsrCompletes s u rd P (.next (retire (writeReg u rd v) (s.pc + 4#32))) :=
  ⟨_, rfl, writesReg_of_x (writeReg_x_congr hx rd _) hP, SameMemory.rfl' _ _ (by simp [hmem]),
    by rw [retire_writeReg_eq, hcount]⟩

/-- An access that retires, whose update leaves registers, memory and count. -/
theorem csrInstruction_completes_of_check {s u : State} {i : CsrAccess} {c : Csr} {P : Word → Prop}
    (hc : csrCheck s i.csr i.writes = .access c) (hm : c ≠ .mnxti) (hretires : (i.writes && isMinstret c) = false)
    (hu : csrUpdate s i c = .ok u) (hx : u.x = s.x) (hmem : u.mem = s.mem) (hcount : u.minstret = s.minstret)
    (hP : P (csrRead s c)) : CsrCompletes s u i.rd P (csrInstruction s i) := by
  rw [csrInstruction_access hc hm hu, csrRetire, hretires]
  exact csrCompletes_retire hx hmem hcount hP

/-- An access that passes the checks but whose read or write has no meaning. -/
theorem csrInstruction_refused {s : State} {i : CsrAccess} {c : Csr} {r : Refusal}
    (hc : csrCheck s i.csr i.writes = .access c) (hm : c ≠ .mnxti) (hu : csrUpdate s i c = .error r) :
    csrInstruction s i = .refused r := by
  unfold csrInstruction
  simp [hc, hm, hu]

/-- A CSR that no check is about: it is read at its address, and written where the address is not read-only. -/
theorem csrCheck_of_unchecked {a : BitVec 12} {c : Csr} (h : csrOf a = some c) (hmachine : isDebugOnly c = false)
    (htrigger : isTdata c = false) (hpresent : c ≠ .unknown) {writes : Bool}
    (hwritable : writes = true → a.extractLsb' 10 2 ≠ 0b11#2) (s : State) : csrCheck s a writes = .access c := by
  have hdcsr : c ≠ .dcsr := fun e => by rw [e] at hmachine; cases hmachine
  cases writes <;> simp [csrCheck, h, hmachine, htrigger, hpresent, hdcsr, hwritable]

/-- A plain read, of a CSR whose reads leave no trace. -/
theorem csrInstruction_reads {s : State} {i : CsrAccess} {c : Csr} {P : Word → Prop} (hw : i.writes = false)
    (h : csrOf i.csr = some c) (hmachine : isDebugOnly c = false) (htrigger : isTdata c = false)
    (hpresent : c ≠ .unknown) (hm : c ≠ .mnxti) (hcause : c ≠ .mcause) (hP : P (csrRead s c)) :
    ∃ t, csrInstruction s i = .next t ∧ Computed s t i.rd 4#32 P := by
  have hc : csrCheck s i.csr i.writes = .access c :=
    csrCheck_of_unchecked h hmachine htrigger hpresent (fun hwrites => by rw [hw] at hwrites; cases hwrites) s
  have hu : csrUpdate s i c = .ok s := by rw [csrUpdate_other fun h => hcause h.1, hw]; rfl
  rw [csrInstruction_access hc hm hu, csrRetire, hw]
  exact writeAndRetire_computed hP

/-! ## `mepc`, `mtval`, `mtvt`, `mtvec` and those that ignore writes (10 sections 5.2, 5.4, 5.5) -/

theorem plainAt_mepc : PlainAt 0x341#12 .mepc := by constructor <;> decide
theorem plainAt_mtval : PlainAt 0x343#12 .mtval := by constructor <;> decide
theorem plainAt_mtvt : PlainAt 0x307#12 .mtvt := by constructor <;> decide
theorem plainAt_mtvec : PlainAt 0x305#12 .mtvec := by constructor <;> decide

/-- Of a plain CSR, CSRRW writes the register. -/
theorem PlainAt.csrrw {a : BitVec 12} {c : Csr} (h : PlainAt a c) {s u : State} (rd rs1 : Reg) {P : Word → Prop}
    (hu : csrWrite s (readReg s rs1) c = .ok u) (hx : u.x = s.x) (hmem : u.mem = s.mem)
    (hcount : u.minstret = s.minstret) (hP : P (csrRead s c)) : CsrCompletes s u rd P (exec (.csrrw rd rs1 a) s) :=
  csrInstruction_completes (i := ⟨.write, a, rd, readReg s rs1, true, false, (encode (.csrrw rd rs1 a)).bits⟩) h
    ((h.csrUpdate s _).trans hu) hx hmem hcount hP

theorem mtvecRead_aligned {s : State} (h : HandlerAligned s) : mtvecRead s = s.mtvec := if_pos h

theorem mtvtRead_aligned {s : State} (h : s.mtvt.toNat % 64 = 0) : mtvtRead s = s.mtvt := if_pos (mtvt_lowBits h)

/-- A write of `mtvec` that is no switch, or with MIE = 0, completes; only a switch out of the CLIC modes makes `mie`
free. -/
theorem mtvecWrite_ok {s : State} {v : Word} (h : s.mstatusMie = false ∨ s.mtvec.getLsbD 1 = v.getLsbD 1) :
    ∃ u, mtvecWrite s v = .ok u ∧
      (s.mtvec.getLsbD 1 = false ∨ v.getLsbD 1 = true →
        u.mieMsie = s.mieMsie ∧ u.mieMtie = s.mieMtie ∧ u.mieMeie = s.mieMeie) ∧
      u = { s with mtvec := v, mieMsie := u.mieMsie, mieMtie := u.mieMtie, mieMeie := u.mieMeie } := by
  unfold mtvecWrite
  by_cases hsame : clicMode s = v.getLsbD 1
  · exact ⟨_, if_pos hsame, fun _ => ⟨rfl, rfl, rfl⟩, rfl⟩
  · have hmie : s.mstatusMie = false := h.resolve_right hsame
    rw [if_neg hsame, if_neg (by simp [hmie])]
    cases hmode : clicMode s with
    | false => exact ⟨_, rfl, fun _ => ⟨rfl, rfl, rfl⟩, rfl⟩
    | true =>
      have hv : v.getLsbD 1 = false := by simpa [hmode] using hsame
      refine ⟨_, rfl, fun hor => ?_, rfl⟩
      obtain hbasic | hclic := hor
      · exact nomatch hmode.symm.trans hbasic
      · exact nomatch hv.symm.trans hclic

theorem mtvecWrite_switch {s : State} {v : Word} (hmie : s.mstatusMie = true)
    (h : s.mtvec.getLsbD 1 ≠ v.getLsbD 1) : mtvecWrite s v = .error .modeSwitchWithMie := by
  rw [mtvecWrite, if_neg (by exact h), if_pos hmie]

/-- The three blocks of the unused counters and of their event selectors. -/
theorem csrOf_hpm_blocks : ∀ k : Fin 29, csrOf (BitVec.ofNat 12 (0xB03 + k.val)) = some .hpm ∧
    csrOf (BitVec.ofNat 12 (0xB83 + k.val)) = some .hpm ∧ csrOf (BitVec.ofNat 12 (0x323 + k.val)) = some .hpm := by
  decide

theorem csrOf_hpm {a : BitVec 12} (h : (0xB03 ≤ a.toNat ∧ a.toNat ≤ 0xB1F) ∨ (0xB83 ≤ a.toNat ∧ a.toNat ≤ 0xB9F) ∨
    (0x323 ≤ a.toNat ∧ a.toNat ≤ 0x33F)) : csrOf a = some .hpm := by
  have ha {n k : Nat} (hk : n + k = a.toNat) : a = BitVec.ofNat 12 (n + k) := by rw [hk, BitVec.ofNat_toNat, BitVec.setWidth_eq]
  obtain ⟨hlow, hhigh⟩ | ⟨hlow, hhigh⟩ | ⟨hlow, hhigh⟩ := h
  · rw [ha (Nat.add_sub_cancel' hlow)]
    exact (csrOf_hpm_blocks ⟨a.toNat - 0xB03, by omega⟩).1
  · rw [ha (Nat.add_sub_cancel' hlow)]
    exact (csrOf_hpm_blocks ⟨a.toNat - 0xB83, by omega⟩).2.1
  · rw [ha (Nat.add_sub_cancel' hlow)]
    exact (csrOf_hpm_blocks ⟨a.toNat - 0x323, by omega⟩).2.2

theorem plainAt_hpm {a : BitVec 12} (h : (0xB03 ≤ a.toNat ∧ a.toNat ≤ 0xB1F) ∨ (0xB83 ≤ a.toNat ∧ a.toNat ≤ 0xB9F) ∨
    (0x323 ≤ a.toNat ∧ a.toNat ≤ 0x33F)) : PlainAt a .hpm where
  address := csrOf_hpm h
  writable htop := by
    have htop := congrArg BitVec.toNat htop
    rw [BitVec.extractLsb'_toNat, Nat.shiftRight_eq_div_pow, BitVec.toNat_ofNat] at htop
    omega
  machine := rfl
  untriggered := rfl
  present := nofun
  not_mnxti := nofun
  not_mcause := nofun
  uncounted := rfl

/-- Settles O35: each is a plain CSR, by what it reads and what its write leaves. -/
theorem plainCsrs : Obligations.PlainCsrs := by
  rintro s rd rs1 _ rfl
  refine ⟨?mepc, ?mtval, fun hmtvt => ?mtvt, fun haligned hsame => ?mtvec, fun hmie hswitch => ?switch, ?misa, ?mhartid,
    fun csr hcsr => ?hpm⟩
  case mepc =>
    obtain ⟨t, ht, hrd, hmem, he⟩ :=
      plainAt_mepc.csrrw (s := s) rd rs1 (P := fun u => u = s.mepc) rfl rfl rfl rfl rfl
    exact ⟨t, ht, hrd, hmem, by rw [he]; exact toNat_clearBit0 _, by rw [he]⟩
  case mtval => exact plainAt_mtval.csrrw rd rs1 rfl rfl rfl rfl rfl
  case mtvt => exact plainAt_mtvt.csrrw rd rs1 rfl rfl rfl rfl (mtvtRead_aligned hmtvt)
  case mtvec =>
    obtain ⟨u, hu, hmie, hframe⟩ := mtvecWrite_ok hsame
    obtain ⟨t, ht, hrd, hmem, he⟩ := plainAt_mtvec.csrrw rd rs1 (P := fun v => v = s.mtvec) hu (by rw [hframe])
      (by rw [hframe]) (by rw [hframe]) (mtvecRead_aligned haligned)
    rw [hframe] at he hmie
    exact ⟨t, ht, hrd, hmem, by rw [he]; exact hmie, by rw [he]⟩
  case switch =>
    exact csrInstruction_refused (plainAt_mtvec.csrCheck s _) plainAt_mtvec.not_mnxti
      ((plainAt_mtvec.csrUpdate s _).trans (mtvecWrite_switch hmie hswitch))
  case misa =>
    exact csrInstruction_computed plainAt_misa (csrUpdate_of_ignoresWrites s plainAt_misa (.inr (.inr rfl))) rfl
  case mhartid => rw [exec_csrrs]; exact csrInstruction_reads (c := .mhartid) rfl rfl rfl rfl nofun nofun nofun rfl
  case hpm =>
    exact csrInstruction_computed (plainAt_hpm hcsr) ((plainAt_hpm hcsr).csrUpdate s _) rfl

/-! ## The counters (10 section 5.7) -/

theorem plainAt_mcycle : PlainAt 0xB00#12 .mcycle := by constructor <;> decide
theorem plainAt_mcycleh : PlainAt 0xB80#12 .mcycleh := by constructor <;> decide

theorem csrCheck_minstret (s : State) (writes : Bool) : csrCheck s 0xB02#12 writes = .access .minstret :=
  csrCheck_of_unchecked (a := 0xB02#12) (c := .minstret) rfl rfl rfl nofun (fun _ => by decide) s

theorem csrCheck_minstreth (s : State) (writes : Bool) : csrCheck s 0xB82#12 writes = .access .minstreth :=
  csrCheck_of_unchecked (a := 0xB82#12) (c := .minstreth) rfl rfl rfl nofun (fun _ => by decide) s

/-- A write of a half of `minstret` is not counted. -/
theorem csrInstruction_uncounted {s u : State} {i : CsrAccess} {c : Csr} {P : Word → Prop}
    (hc : csrCheck s i.csr i.writes = .access c) (hm : c ≠ .mnxti) (hcounter : (i.writes && isMinstret c) = true)
    (hu : csrUpdate s i c = .ok u) (hx : u.x = s.x) (hmem : u.mem = s.mem) (hP : P (csrRead s c)) :
    ∃ t, csrInstruction s i = .next t ∧ SameMemory s t ∧ WritesReg s t i.rd P ∧
      t = { u with x := t.x, pc := s.pc + 4#32 } := by
  rw [csrInstruction_access hc hm hu, csrRetire, if_pos hcounter]
  refine ⟨_, rfl, SameMemory.rfl' _ _ (by simp [hmem]), writesReg_of_x (writeReg_x_congr hx i.rd _) hP, ?_⟩
  unfold writeReg
  split <;> rfl

theorem toNat_lowReplaced (m : BitVec 64) (v : Word) :
    (m.extractLsb' 32 32 ++ v).toNat = m.toNat / 2 ^ 32 * 2 ^ 32 + v.toNat := by
  rw [toNat_append_eq_add, toNat_highWord]

theorem toNat_highReplaced (m : BitVec 64) (v : Word) :
    (v ++ m.extractLsb' 0 32).toNat = v.toNat * 2 ^ 32 + m.toNat % 2 ^ 32 := by
  rw [toNat_append_eq_add, toNat_lowWord]

/-- The count that starts at `m` less the cycles drawn so far is `m`. -/
theorem cycleCount_of_base {s t : State} {m : BitVec 64} (hboundary : t.boundary = s.boundary)
    (hbase : t.mcycleBase = m - BitVec.ofNat 64 (cyclesBefore s.boundary)) : cycleCount t = m := by
  rw [cycleCount, hbase, hboundary, BitVec.sub_add_cancel]

/-- Over a run that leaves where it starts from, the count grows by the cycles drawn. -/
theorem cycleCount_of_reaches {s t : State} (h : Reaches s t) (hbase : t.mcycleBase = s.mcycleBase) :
    ∃ n : Nat, cyclesBefore t.boundary = cyclesBefore s.boundary + n ∧
      cycleCount t = cycleCount s + BitVec.ofNat 64 n := by
  obtain ⟨n, hn⟩ := Nat.exists_eq_add_of_le (cyclesBefore_le_of_reaches h)
  exact ⟨n, hn, by rw [cycleCount, cycleCount, hbase, hn, BitVec.ofNat_add, BitVec.add_assoc]⟩

theorem toNat_le_add_of_lt {a : BitVec 64} {n : Nat} (h : a.toNat + n < 2 ^ 64) :
    a.toNat ≤ (a + BitVec.ofNat 64 n).toNat := by
  rw [BitVec.toNat_add, BitVec.toNat_ofNat]
  omega

/-- Settles O36: reads by the halves, writes by the replaced half, and the run by the cycles drawn over it. -/
theorem counterAccess : Obligations.CounterAccess := by
  rintro s rd rs1 _ rfl
  refine ⟨?instret, ?instreth, ?writeInstret, ?writeInstreth, ?writeCycle, ?writeCycleh, ?cycle, ?cycleh,
    fun t => step_mcycleBase, fun t hreach hbase => ?run⟩
  case instret =>
    rintro csr (rfl | rfl) <;> rw [exec_csrrs]
    · exact csrInstruction_reads (c := .minstret) rfl rfl rfl rfl nofun nofun nofun (toNat_lowWord _)
    · exact csrInstruction_reads (c := .instret) rfl rfl rfl rfl nofun nofun nofun (toNat_lowWord _)
  case instreth =>
    rintro csr (rfl | rfl) <;> rw [exec_csrrs]
    · exact csrInstruction_reads (c := .minstreth) rfl rfl rfl rfl nofun nofun nofun (toNat_highWord _)
    · exact csrInstruction_reads (c := .instreth) rfl rfl rfl rfl nofun nofun nofun (toNat_highWord _)
  case cycle =>
    rintro csr (rfl | rfl) <;> rw [exec_csrrs]
    · exact csrInstruction_reads (c := .mcycle) rfl rfl rfl rfl nofun nofun nofun (toNat_lowWord _)
    · exact csrInstruction_reads (c := .cycle) rfl rfl rfl rfl nofun nofun nofun (toNat_lowWord _)
  case cycleh =>
    rintro csr (rfl | rfl) <;> rw [exec_csrrs]
    · exact csrInstruction_reads (c := .mcycleh) rfl rfl rfl rfl nofun nofun nofun (toNat_highWord _)
    · exact csrInstruction_reads (c := .cycleh) rfl rfl rfl rfl nofun nofun nofun (toNat_highWord _)
  case writeInstret =>
    rw [exec_csrrw]
    obtain ⟨t, ht, hmem, hrd, he⟩ := csrInstruction_uncounted (s := s) (P := fun u => u = csrRead s .minstret)
      (i := ⟨.write, 0xB02#12, rd, readReg s rs1, true, false, (encode (.csrrw rd rs1 0xB02#12)).bits⟩)
      (csrCheck_minstret s true) nofun rfl (csrUpdate_other nofun) rfl rfl rfl
    exact ⟨t, ht, hmem, hrd, by rw [he]; exact toNat_lowReplaced _ _, by rw [he]⟩
  case writeInstreth =>
    rw [exec_csrrw]
    obtain ⟨t, ht, hmem, hrd, he⟩ := csrInstruction_uncounted (s := s) (P := fun u => u = csrRead s .minstreth)
      (i := ⟨.write, 0xB82#12, rd, readReg s rs1, true, false, (encode (.csrrw rd rs1 0xB82#12)).bits⟩)
      (csrCheck_minstreth s true) nofun rfl (csrUpdate_other nofun) rfl rfl rfl
    exact ⟨t, ht, hmem, hrd, by rw [he]; exact toNat_highReplaced _ _, by rw [he]⟩
  case writeCycle =>
    obtain ⟨t, ht, hrd, hmem, he⟩ :=
      plainAt_mcycle.csrrw (s := s) rd rs1 (P := fun u => u = csrRead s .mcycle) rfl rfl rfl rfl rfl
    refine ⟨t, ht, hmem, hrd, ?_, by rw [he]⟩
    rw [cycleCount_of_base (s := s) (t := t) (by rw [he]) (by rw [he]), toNat_lowReplaced]
  case writeCycleh =>
    obtain ⟨t, ht, hrd, hmem, he⟩ :=
      plainAt_mcycleh.csrrw (s := s) rd rs1 (P := fun u => u = csrRead s .mcycleh) rfl rfl rfl rfl rfl
    refine ⟨t, ht, hmem, hrd, ?_, by rw [he]⟩
    rw [cycleCount_of_base (s := s) (t := t) (by rw [he]) (by rw [he]), toNat_highReplaced]
  case run =>
    obtain ⟨n, hn, hcount⟩ := cycleCount_of_reaches hreach hbase
    exact ⟨n, hn, hcount, fun hlt => hcount ▸ toNat_le_add_of_lt hlt⟩

end Sys2Proof.Machine
end

section
/-! SUPPORT. `mcause`: the image it reads, what a write restores, and the round trip of a handler
(spec/10_state.md section 5.5; spec/93_implementation_defined.md section A). -/

namespace Sys2Proof.Machine

theorem csrCheck_mcause (s : State) (writes : Bool) : csrCheck s 0x342#12 writes = .access .mcause :=
  csrCheck_of_unchecked (a := 0x342#12) (c := .mcause) rfl rfl rfl nofun (fun _ => by decide) s

/-! ## The image (10 R73 to R76) -/

theorem mcauseRead_clic {s : State} (h : clicMode s = true) : mcauseRead s =
    BitVec.ofBool s.mcauseInterrupt ++ BitVec.ofBool s.mcauseMinhv ++ 0b11#2 ++ mpilImageOf s.mcauseMpil ++
      BitVec.ofBool s.mstatusMpie ++ 0#13 ++ s.mcauseCode := if_pos h

theorem mcauseRead_basic {s : State} (h : clicMode s = false) :
    mcauseRead s = BitVec.ofBool s.mcauseInterrupt ++ 0#21 ++ s.mcauseCode := if_neg (by simp [h])

/-- A bit is the field of one bit at its place. -/
theorem getLsbD_eq_of_extract {n k : Nat} {v : BitVec n} {b : Bool} (h : v.extractLsb' k 1 = BitVec.ofBool b) :
    v.getLsbD k = b := by
  have hbit := congrArg (fun u => BitVec.getLsbD u 0) h
  simpa using hbit

theorem mcauseRead_interrupt (s : State) : (mcauseRead s).getLsbD 31 = s.mcauseInterrupt := by
  apply getLsbD_eq_of_extract
  cases h : clicMode s with
  | false => rw [mcauseRead_basic h]; simp (disch := decide) only [extract_append_high, Nat.reduceSub, extract_self]
  | true => rw [mcauseRead_clic h]; simp (disch := decide) only [extract_append_high, Nat.reduceSub, extract_self]

theorem mcauseRead_code (s : State) : (mcauseRead s).extractLsb' 0 10 = s.mcauseCode := by
  cases h : clicMode s with
  | false => rw [mcauseRead_basic h, extract_append_low _ _ _ _ (by decide), extract_self]
  | true => rw [mcauseRead_clic h, extract_append_low _ _ _ _ (by decide), extract_self]

theorem mcauseRead_zeros (s : State) : (mcauseRead s).extractLsb' 10 13 = 0#13 := by
  cases h : clicMode s with
  | false =>
    rw [mcauseRead_basic h]
    simp (disch := decide) only [extract_append_high, extract_append_low, Nat.reduceSub, BitVec.reduceExtractLsb']
  | true =>
    rw [mcauseRead_clic h]
    simp (disch := decide) only [extract_append_high, extract_append_low, Nat.reduceSub, extract_self]

theorem mcauseRead_basic_zeros {s : State} (h : clicMode s = false) : (mcauseRead s).extractLsb' 10 21 = 0#21 := by
  rw [mcauseRead_basic h]
  simp (disch := decide) only [extract_append_high, extract_append_low, Nat.reduceSub, extract_self]

/-- The fields that exist in CLIC mode only. -/
theorem mcauseRead_clic_fields {s : State} (h : clicMode s = true) :
    (mcauseRead s).getLsbD 23 = s.mstatusMpie ∧ (mcauseRead s).extractLsb' 28 2 = 0b11#2 ∧
      (mcauseRead s).getLsbD 30 = s.mcauseMinhv ∧ (mcauseRead s).extractLsb' 24 4 = mpilImageOf s.mcauseMpil := by
  rw [mcauseRead_clic h]
  refine ⟨getLsbD_eq_of_extract ?_, ?_, getLsbD_eq_of_extract ?_, ?_⟩ <;>
    simp (disch := decide) only [extract_append_high, extract_append_low, Nat.reduceSub, extract_self]

/-- The image of `mcause`. -/
def McauseImage (s : State) (u : Word) : Prop :=
  u.getLsbD 31 = s.mcauseInterrupt ∧ u.extractLsb' 0 10 = s.mcauseCode ∧ u.extractLsb' 10 13 = 0#13 ∧
  (clicMode s = true →
    u.getLsbD 23 = s.mstatusMpie ∧ u.extractLsb' 28 2 = 0b11#2 ∧ u.getLsbD 30 = s.mcauseMinhv) ∧
  (clicMode s = false → u.extractLsb' 10 21 = 0#21)

theorem mcauseImage_mcauseRead (s : State) : McauseImage s (mcauseRead s) := by
  refine ⟨mcauseRead_interrupt s, mcauseRead_code s, mcauseRead_zeros s, fun hmode => ?_, mcauseRead_basic_zeros⟩
  obtain ⟨hmpie, hmpp, hminhv, -⟩ := mcauseRead_clic_fields hmode
  exact ⟨hmpie, hmpp, hminhv⟩

/-! ## The read part (10 R75; 93 U2) -/

/-- What a read of `mcause` with a legal cause leaves: the record that the image has been read. -/
def mcauseNoted (s : State) : State :=
  if clicMode s then { s with mpilSeen := s.mpilSeen ||| seenBit s.mcauseMpil } else s

theorem mcauseReadPart_legal {s : State} (h : causeLegal s = true) : mcauseReadPart s = .ok (mcauseNoted s) := if_pos h

theorem mcauseReadPart_illegal {s : State} (h : causeLegal s = false) :
    mcauseReadPart s = .error .mcauseCodeIllegal := if_neg (by simp [h])

/-- Nothing but the record differs, and it only grows. -/
theorem mcauseNoted_eq (s : State) : mcauseNoted s = { s with mpilSeen := (mcauseNoted s).mpilSeen } := by
  unfold mcauseNoted
  split <;> rfl

theorem mcauseNoted_mpilSeen {s : State} {k : Nat} (h : s.mpilSeen.getLsbD k = true) :
    (mcauseNoted s).mpilSeen.getLsbD k = true := by
  unfold mcauseNoted
  split
  · simp only [BitVec.getLsbD_or, h, Bool.true_or]
  · exact h

theorem mcauseNoted_basic {s : State} (h : clicMode s = false) : mcauseNoted s = s := if_neg (by simp [h])

/-- CSRRS with x0 reads only. -/
theorem exec_csrrs_mcause {s : State} (h : causeLegal s = true) (rd : Reg) {P : Word → Prop} (hP : P (mcauseRead s)) :
    CsrCompletes s (mcauseNoted s) rd P (exec (.csrrs rd 0#5 0x342#12) s) := by
  rw [exec_csrrs]
  refine csrInstruction_completes_of_check (csrCheck_mcause s _) nofun rfl ?_ ?_ ?_ ?_ hP
  · have hread : csrReadPart s ⟨.set, 0x342#12, rd, readReg s 0#5, 0#5 != 0#5, false,
        (encode (.csrrs rd 0#5 0x342#12)).bits⟩ .mcause = .ok (mcauseNoted s) :=
      (if_pos ⟨rfl, rfl⟩).trans (mcauseReadPart_legal h)
    rw [csrUpdate, hread]
    rfl
  all_goals rw [mcauseNoted_eq]

/-- An access that reads an illegal cause has no meaning. -/
theorem csrInstruction_mcause_illegal {s : State} {i : CsrAccess} (ha : i.csr = 0x342#12) (hr : i.reads = true)
    (h : causeLegal s = false) : csrInstruction s i = .refused .mcauseCodeIllegal := by
  have hread : csrReadPart s i .mcause = .error .mcauseCodeIllegal :=
    (if_pos ⟨rfl, hr⟩).trans (mcauseReadPart_illegal h)
  refine csrInstruction_refused (c := .mcause) (by rw [ha]; exact csrCheck_mcause s _) nofun ?_
  rw [csrUpdate, hread]

/-! ## The write part (10 R73 to R76) -/

/-- The state in which CSRRW writes: of `mcause`, after the read, unless the destination is x0. -/
theorem csrReadPart_csrrw_mcause {s : State} (rd : Reg) (h : causeLegal s = true ∨ rd = 0#5) (v bits : Word) :
    ∃ u, csrReadPart s ⟨.write, 0x342#12, rd, v, true, false, bits⟩ .mcause = .ok u ∧ (u = s ∨ u = mcauseNoted s) := by
  by_cases hrd : rd = 0#5
  · refine ⟨s, csrReadPart_other ?_, .inl rfl⟩
    rw [hrd]
    exact nofun
  · refine ⟨mcauseNoted s, (if_pos ⟨rfl, ?_⟩).trans (mcauseReadPart_legal (h.resolve_right hrd)), .inr rfl⟩
    simp [CsrAccess.reads, hrd]

/-- CSRRW to `mcause` whose write has a meaning in the state after the read. -/
theorem exec_csrrw_mcause {s u q : State} {rd rs1 : Reg}
    (hread : csrReadPart s ⟨.write, 0x342#12, rd, readReg s rs1, true, false,
      (encode (.csrrw rd rs1 0x342#12)).bits⟩ .mcause = .ok u)
    (hwrite : mcauseWrite u (readReg s rs1) = .ok q) (hq : CsrFrame s q) (hcount : q.minstret = s.minstret) :
    CsrCompletes s q rd (fun v => v = csrRead s .mcause) (exec (.csrrw rd rs1 0x342#12) s) := by
  rw [exec_csrrw]
  refine csrInstruction_completes_of_check (csrCheck_mcause s _) nofun rfl ?_ hq.x hq.mem hcount rfl
  rw [csrUpdate, hread]
  exact hwrite

theorem mcauseWrite_basic {s : State} (h : clicMode s = false) (v : Word) : mcauseWrite s v =
    .ok { s with mcauseInterrupt := v.getLsbD 31, mcauseCode := v.extractLsb' 0 10 } := if_neg (by simp [h])

/-- What a write restores in CLIC mode. -/
def mcauseRestored (s : State) (v : Word) (level : Level) : State :=
  { s with
    mcauseInterrupt := v.getLsbD 31
    mcauseMinhv := false
    mcauseMpil := level
    mstatusMpie := v.getLsbD 23
    mcauseCode := v.extractLsb' 0 10 }

theorem mcauseWrite_clic {s : State} (h : clicMode s = true) {v : Word} (hv : v.getLsbD 30 = false) {level : Level}
    (hlevel : restoredLevel s (v.extractLsb' 24 4) = some level) :
    mcauseWrite s v = .ok (mcauseRestored s v level) := by
  rw [mcauseWrite, if_pos h, if_neg (Bool.eq_false_iff.1 hv), hlevel]
  rfl

theorem mcauseWrite_unknown {s : State} (h : clicMode s = true) {v : Word} (hv : v.getLsbD 30 = false)
    (hlevel : restoredLevel s (v.extractLsb' 24 4) = none) : mcauseWrite s v = .error .mpilImageUnknown := by
  rw [mcauseWrite, if_pos h, if_neg (Bool.eq_false_iff.1 hv), hlevel]

theorem mcauseWrite_minhv {s : State} (h : clicMode s = true) {v : Word} (hv : v.getLsbD 30 = true) :
    mcauseWrite s v = .error .minhvWrite := by
  rw [mcauseWrite, if_pos h, if_pos hv]

/-- Without destination, CSRRW is the write. -/
theorem csrUpdate_csrrw_x0 (s : State) (v bits : Word) :
    csrUpdate s ⟨.write, 0x342#12, 0#5, v, true, false, bits⟩ .mcause = mcauseWrite s v :=
  csrUpdate_other fun h => Bool.false_ne_true h.2

theorem exec_csrrw_mcause_refused {s : State} {rs1 : Reg} {r : Refusal}
    (h : mcauseWrite s (readReg s rs1) = .error r) : exec (.csrrw 0#5 rs1 0x342#12) s = .refused r := by
  rw [exec_csrrw]
  exact csrInstruction_refused (csrCheck_mcause s _) nofun ((csrUpdate_csrrw_x0 s _ _).trans h)

/-- The clauses in another order. -/
theorem CsrCompletes.memory_first {s u : State} {rd : Reg} {P : Word → Prop} {o : Host.Outcome State Fault Refusal}
    (h : CsrCompletes s u rd P o) : ∃ t, o = .next t ∧ SameMemory s t ∧ WritesReg s t rd P ∧
      t = { u with x := t.x, pc := s.pc + 4#32, minstret := s.minstret + 1#64 } := by
  obtain ⟨t, ho, hrd, hmem, he⟩ := h
  exact ⟨t, ho, hmem, hrd, he⟩

/-- Settles O33: the image by its fields, and a write by the mode, bit 30 and the level whose image it carries. -/
theorem mcauseAccess : Obligations.McauseAccess := by
  rintro s rd rs1 _ _ rfl rfl
  refine ⟨fun hlegal => ?read, fun hillegal => ⟨?readIllegal, fun hrd => ?swapIllegal⟩,
    fun hmode hread => ?writeBasic, fun level hmode hread hv hlevel hseen => ?writeClic,
    fun hmode hv hunseen => ?unknown, fun hmode hv => exec_csrrw_mcause_refused (mcauseWrite_minhv hmode hv)⟩
  case read =>
    obtain ⟨t, ht, hmem, hrd, he⟩ := (exec_csrrs_mcause hlegal rd (mcauseImage_mcauseRead s)).memory_first
    refine ⟨t, ht, hmem, hrd, fun hmode => ?_, ?_⟩
    · rw [he, mcauseNoted_basic hmode]
    · rw [he, mcauseNoted_eq]
  case readIllegal => rw [exec_csrrs]; exact csrInstruction_mcause_illegal rfl rfl hillegal
  case swapIllegal => rw [exec_csrrw]; exact csrInstruction_mcause_illegal rfl (by simp [CsrAccess.reads, hrd]) hillegal
  case writeBasic =>
    obtain ⟨u, hu, hcases⟩ := csrReadPart_csrrw_mcause rd hread (readReg s rs1)
      (encode (.csrrw rd rs1 0x342#12)).bits
    obtain rfl : u = s := hcases.elim id fun h => h.trans (mcauseNoted_basic hmode)
    exact (exec_csrrw_mcause hu (mcauseWrite_basic hmode _) rfl rfl).memory_first
  case writeClic =>
    obtain ⟨u, hu, hcases⟩ := csrReadPart_csrrw_mcause rd hread (readReg s rs1)
      (encode (.csrrw rd rs1 0x342#12)).bits
    have hframe : u = { s with mpilSeen := u.mpilSeen } := by
      obtain rfl | rfl := hcases
      · rfl
      · exact mcauseNoted_eq s
    have hseen' : u.mpilSeen.getLsbD (level.toNat / 16) = true := by
      obtain rfl | rfl := hcases
      · exact hseen
      · exact mcauseNoted_mpilSeen hseen
    have hmode' : clicMode u = true := by rw [hframe]; exact hmode
    obtain ⟨t, ht, hmem, hrd, he⟩ := (exec_csrrw_mcause hu
      (mcauseWrite_clic hmode' hv (restoredLevel_eq_some.2 ⟨hlevel, hseen'⟩))
      (by rw [hframe]; rfl) (by rw [hframe]; rfl)).memory_first
    refine ⟨t, ht, hmem, hrd, ?_⟩
    rw [hframe] at he
    rw [he]
    rfl
  case unknown =>
    refine exec_csrrw_mcause_refused (mcauseWrite_unknown hmode hv ?_)
    cases hlevel : restoredLevel s ((readReg s rs1).extractLsb' 24 4) with
    | none => rfl
    | some level =>
      obtain ⟨himage, hseen⟩ := restoredLevel_eq_some.1 hlevel
      exact nomatch hseen.symm.trans (hunseen level himage)

/-! ## The round trip of a handler (10 R75) -/

/-- CSRRW without destination, where the write has a meaning. -/
theorem exec_csrrw_mcause_x0 {s u : State} {rs1 : Reg} (h : mcauseWrite s (readReg s rs1) = .ok u) :
    exec (.csrrw 0#5 rs1 0x342#12) s = .next (retire u (s.pc + 4#32)) := by
  rw [exec_csrrw]
  exact csrInstruction_access (c := .mcause) (csrCheck_mcause s _) nofun ((csrUpdate_csrrw_x0 s _ _).trans h)

/-- An image that was recorded stays one that may be written back while the record grows. -/
theorem mpilSeen_of_later {s later : State} (hmode : clicMode s = true)
    (h : later.mpilSeen &&& (mcauseNoted s).mpilSeen = (mcauseNoted s).mpilSeen) :
    later.mpilSeen.getLsbD (s.mcauseMpil.toNat / 16) = true := by
  have hbit := congrArg (fun v => BitVec.getLsbD v (s.mcauseMpil.toNat / 16)) h
  have hnoted : (mcauseNoted s).mpilSeen = s.mpilSeen ||| seenBit s.mcauseMpil := by rw [mcauseNoted, if_pos hmode]
  simp only [hnoted, BitVec.getLsbD_and, BitVec.getLsbD_or, seenBit_getLsbD, decide_true, Bool.or_true,
    Bool.and_true] at hbit
  exact hbit

/-- Settles O34: the value read carries each field, and the image of the level has been recorded. -/
theorem mcauseRoundTrip : Obligations.McauseRoundTrip := by
  intro s rd hrd hlevel hminhv hcause
  obtain ⟨t, ht, hreg, -, he⟩ := exec_csrrs_mcause hcause rd (P := fun v => v = mcauseRead s) rfl
  refine ⟨t, ht, fun later rs1 hrs1 => ⟨fun hmode hlater hseen => ?clic, fun hmode hlater => ?basic⟩⟩
  case clic =>
    rw [hreg.1 hrd] at hrs1
    rw [he] at hseen
    obtain ⟨hmpie, -, hbit30, himage⟩ := mcauseRead_clic_fields hmode
    have hrestored : restoredLevel later ((mcauseRead s).extractLsb' 24 4) = some s.mcauseMpil := by
      rw [himage]
      exact restoredLevel_eq_some.2 ⟨levelOfImage_mpilImageOf hlevel, mpilSeen_of_later hmode hseen⟩
    have hwrite := mcauseWrite_clic hlater (hbit30.trans hminhv) hrestored
    rw [← hrs1] at hwrite
    refine ⟨_, exec_csrrw_mcause_x0 hwrite, SameMemory.rfl' _ _ rfl, ?_⟩
    rw [mcauseRestored, hrs1, mcauseRead_interrupt, mcauseRead_code, hmpie]
    rfl
  case basic =>
    rw [hreg.1 hrd] at hrs1
    refine ⟨_, exec_csrrw_mcause_x0 (mcauseWrite_basic hlater _), SameMemory.rfl' _ _ rfl, ?_⟩
    rw [hrs1, mcauseRead_interrupt, mcauseRead_code]
    rfl

end Sys2Proof.Machine
end

section
/-! SUPPORT. `mnxti`: the accesses to which the spec gives no meaning, and the offer, the interrupt enable and the commit
of the others (spec/60_exceptions.md R475, R476). -/

namespace Sys2Proof.Machine

/-! ## Where an access goes (60 R475, R476) -/

/-- Every access to 0x345 has the rule of `mnxti`. -/
theorem csrInstruction_mnxti (s : State) {i : CsrAccess} (ha : i.csr = 0x345#12) :
    csrInstruction s i = mnxtiAccess s i := by
  have hcheck : csrCheck s i.csr i.writes = .access .mnxti := by
    rw [ha]
    exact csrCheck_of_unchecked (a := 0x345#12) (c := .mnxti) rfl rfl rfl nofun (fun _ => by decide) s
  unfold csrInstruction
  simp [hcheck]

theorem mnxtiAccess_form {s : State} {i : CsrAccess} (h : mnxtiFormOk i = false) :
    mnxtiAccess s i = .refused .mnxtiForm := by
  rw [mnxtiAccess, if_neg (by simp [h])]

theorem mnxtiAccess_nonClic {s : State} {i : CsrAccess} (h : mnxtiFormOk i = true) (hmode : clicMode s = false) :
    mnxtiAccess s i = .refused .mnxtiNonClic := by
  rw [mnxtiAccess, if_pos h, if_neg (by simp [hmode])]

theorem mnxtiAccess_error {s : State} {i : CsrAccess} {r : Refusal} (h : mnxtiFormOk i = true)
    (hmode : clicMode s = true) (ho : mnxtiOffer s = .error r) : mnxtiAccess s i = .refused r := by
  rw [mnxtiAccess, if_pos h, if_pos hmode, ho]

/-- An immediate access or a plain read in CLIC mode, by what is offered. -/
theorem mnxtiAccess_offer {s : State} {i : CsrAccess} {offer : Option Nat} (h : mnxtiFormOk i = true)
    (hmode : clicMode s = true) (ho : mnxtiOffer s = .ok offer) :
    mnxtiAccess s i = .next (retire (writeReg
      (if i.writes then offer.elim id (fun w t => mnxtiCommit t w) (mnxtiStatus s i.op i.operand) else s) i.rd
      (offer.elim 0#32 (tableEntry s))) (s.pc + 4#32)) := by
  rw [mnxtiAccess, if_pos h, if_pos hmode, ho]
  cases offer <;> cases i.writes <;> rfl

/-! ## What is offered (60 R475, R476 (c)) -/

theorem mnxtiOffer_vectored {s : State} {w : Nat} (hw : winner s = some w) (hn : nlbitsSeen s ≤ 2#4)
    (hvec : hardwareVectored s w = true) : mnxtiOffer s = .error .mnxtiVectored := by
  simp only [mnxtiOffer, hw, if_neg (BitVec.not_lt.2 hn), if_pos hvec]

theorem mnxtiOffer_none {s : State} (h : winner s = none ∨ ∃ w, winner s = some w ∧ nlbitsSeen s ≤ 2#4 ∧
    hardwareVectored s w = false ∧ levelSeen s w ≤ s.mcauseMpil) : mnxtiOffer s = .ok none := by
  obtain hnone | ⟨w, hw, hn, hvec, hlevel⟩ := h
  · simp only [mnxtiOffer, hnone]
  · simp only [mnxtiOffer, hw, if_neg (BitVec.not_lt.2 hn), hvec, Bool.false_eq_true, if_false,
      if_neg (BitVec.not_lt.2 hlevel)]

theorem mnxtiOffer_some {s : State} {w : Nat} (hw : winner s = some w) (hn : nlbitsSeen s ≤ 2#4)
    (hvec : hardwareVectored s w = false) (hlevel : s.mcauseMpil < levelSeen s w) (hmtvt : s.mtvt.toNat % 64 = 0) :
    mnxtiOffer s = .ok (some w) := by
  simp only [mnxtiOffer, hw, if_neg (BitVec.not_lt.2 hn), hvec, Bool.false_eq_true, if_false, if_pos hlevel,
    if_pos (mtvt_lowBits hmtvt)]

/-! ## The forms (43 R321 to R325; 60 R476 (a)) -/

/-- The four forms that `mnxti` takes are accesses of one shape. -/
theorem mnxti_forms (s : State) (rd : Reg) (uimm : BitVec 5) : ∃ b1 b2 b3 b4 : Word,
    exec (.csrrsi rd uimm 0x345#12) s = mnxtiAccess s ⟨.set, 0x345#12, rd, zext uimm, uimm != 0#5, true, b1⟩ ∧
    exec (.csrrci rd uimm 0x345#12) s = mnxtiAccess s ⟨.clear, 0x345#12, rd, zext uimm, uimm != 0#5, true, b2⟩ ∧
    exec (.csrrs rd 0#5 0x345#12) s = mnxtiAccess s ⟨.set, 0x345#12, rd, readReg s 0#5, 0#5 != 0#5, false, b3⟩ ∧
    exec (.csrrc rd 0#5 0x345#12) s = mnxtiAccess s ⟨.clear, 0x345#12, rd, readReg s 0#5, 0#5 != 0#5, false, b4⟩ := by
  rw [exec_csrrsi, exec_csrrci, exec_csrrs, exec_csrrc]
  exact ⟨_, _, _, _, csrInstruction_mnxti s rfl, csrInstruction_mnxti s rfl, csrInstruction_mnxti s rfl,
    csrInstruction_mnxti s rfl⟩

/-- Settles O39: by the form, then the mode, then what would be offered. -/
theorem mnxtiRefused : Obligations.MnxtiRefused := by
  intro s rd rs1 uimm
  obtain ⟨b1, b2, b3, b4, hsi, hci, hs, hc⟩ := mnxti_forms s rd uimm
  refine ⟨?write, ?writeImm, fun hrs1 => ⟨?set, ?clear⟩, fun hmode => ?nonClic, fun w hmode hw hn hvec => ?vectored⟩
  case write => exact (csrInstruction_mnxti s rfl).trans (mnxtiAccess_form rfl)
  case writeImm => exact (csrInstruction_mnxti s rfl).trans (mnxtiAccess_form rfl)
  case set => exact (csrInstruction_mnxti s rfl).trans (mnxtiAccess_form (by simp [mnxtiFormOk, hrs1]))
  case clear => exact (csrInstruction_mnxti s rfl).trans (mnxtiAccess_form (by simp [mnxtiFormOk, hrs1]))
  case nonClic =>
    rw [hsi, hci, hs, hc]
    exact ⟨mnxtiAccess_nonClic rfl hmode, mnxtiAccess_nonClic rfl hmode, mnxtiAccess_nonClic rfl hmode,
      mnxtiAccess_nonClic rfl hmode⟩
  case vectored =>
    have ho := mnxtiOffer_vectored hw hn hvec
    rw [hsi, hci, hs, hc]
    exact ⟨mnxtiAccess_error rfl hmode ho, mnxtiAccess_error rfl hmode ho, mnxtiAccess_error rfl hmode ho,
      mnxtiAccess_error rfl hmode ho⟩

/-! ## The interrupt enable and the commit (60 R475) -/

/-- The status update of `mnxti` is that of `mstatus`. -/
theorem mnxtiStatus_eq (s : State) (op : CsrOp) (operand : Word) :
    mnxtiStatus s op operand = mstatusUpdate s op operand :=
  Except.ok.inj (csrWrite_mstatus s op operand)

/-- The state with MIE set or cleared by bit 3 of an immediate. -/
def mnxtiEnabled (s : State) (op : CsrOp) (uimm : BitVec 5) : State :=
  { s with mstatusMie := op.applyBit s.mstatusMie (uimm.getLsbD 3) }

theorem CsrOp.applyBit_false {op : CsrOp} (h : op ≠ .write) (b : Bool) : op.applyBit b false = b := by
  cases op with
  | write => exact absurd rfl h
  | set => exact Bool.or_false b
  | clear => exact Bool.and_true b

/-- An immediate reaches MIE only, and 0 changes nothing. -/
theorem mnxtiStatus_zext {s : State} {op : CsrOp} (h : op ≠ .write) (uimm : BitVec 5) :
    mnxtiStatus s op (zext uimm) = mnxtiEnabled s op uimm := by
  rw [mnxtiStatus_eq, mstatusUpdate_zext, CsrOp.applyBit_false h]
  rfl

theorem mnxtiEnabled_zero {s : State} {op : CsrOp} (h : op ≠ .write) : mnxtiEnabled s op 0#5 = s := by
  have hbit : (0#5).getLsbD 3 = false := rfl
  rw [mnxtiEnabled, hbit, CsrOp.applyBit_false h]

/-- What an immediate access leaves beside the register: MIE, and with a non-zero immediate the commit to `w`. -/
def mnxtiUpdate (s : State) (op : CsrOp) (uimm : BitVec 5) (w : Nat) : State :=
  { mnxtiEnabled s op uimm with
    mil := if uimm = 0#5 then s.mil else levelSeen s w
    mcauseCode := if uimm = 0#5 then s.mcauseCode else BitVec.ofNat 10 w
    mcauseInterrupt := if uimm = 0#5 then s.mcauseInterrupt else true }

theorem mnxtiUpdate_eq {s : State} {op : CsrOp} (h : op ≠ .write) (uimm : BitVec 5) (w : Nat) :
    (if uimm != 0#5 then mnxtiCommit (mnxtiStatus s op (zext uimm)) w else s) = mnxtiUpdate s op uimm w := by
  rw [mnxtiStatus_zext h, mnxtiUpdate]
  by_cases hz : uimm = 0#5
  · subst hz
    rw [mnxtiEnabled_zero h]
    rfl
  · simp only [bne_iff_ne, ne_eq, hz, not_false_eq_true, if_true, if_false]
    rfl

theorem mnxtiEnabled_eq {s : State} {op : CsrOp} (h : op ≠ .write) (uimm : BitVec 5) :
    (if uimm != 0#5 then mnxtiStatus s op (zext uimm) else s) = mnxtiEnabled s op uimm := by
  rw [mnxtiStatus_zext h]
  by_cases hz : uimm = 0#5
  · subst hz
    rw [mnxtiEnabled_zero h]
    rfl
  · simp only [bne_iff_ne, ne_eq, hz, not_false_eq_true, if_true]

/-- With nothing offered, an immediate access reads 0 and sets or clears MIE. -/
theorem mnxtiAccess_immediate_none {s : State} (hmode : clicMode s = true) (ho : mnxtiOffer s = .ok none) {op : CsrOp}
    (hop : op ≠ .write) (rd : Reg) (uimm : BitVec 5) (bits : Word) :
    CsrCompletes s (mnxtiEnabled s op uimm) rd (fun v => v = 0#32)
      (mnxtiAccess s ⟨op, 0x345#12, rd, zext uimm, uimm != 0#5, true, bits⟩) := by
  have hform : mnxtiFormOk ⟨op, 0x345#12, rd, zext uimm, uimm != 0#5, true, bits⟩ = true := by
    cases op with
    | write => exact absurd rfl hop
    | set | clear => rfl
  rw [mnxtiAccess_offer hform hmode ho, ← mnxtiEnabled_eq hop]
  exact csrCompletes_retire (by split <;> rfl) (by split <;> rfl) (by split <;> rfl) rfl

/-- With the winner offered, it reads the table entry, and commits if the immediate is not 0. -/
theorem mnxtiAccess_immediate_some {s : State} (hmode : clicMode s = true) {w : Nat} (ho : mnxtiOffer s = .ok (some w))
    {op : CsrOp} (hop : op ≠ .write) (rd : Reg) (uimm : BitVec 5) (bits : Word) :
    CsrCompletes s (mnxtiUpdate s op uimm w) rd (fun v => v = tableEntry s w)
      (mnxtiAccess s ⟨op, 0x345#12, rd, zext uimm, uimm != 0#5, true, bits⟩) := by
  have hform : mnxtiFormOk ⟨op, 0x345#12, rd, zext uimm, uimm != 0#5, true, bits⟩ = true := by
    cases op with
    | write => exact absurd rfl hop
    | set | clear => rfl
  rw [mnxtiAccess_offer hform hmode ho, ← mnxtiUpdate_eq hop]
  exact csrCompletes_retire (by split <;> rfl) (by split <;> rfl) (by split <;> rfl) rfl

/-- A plain read changes nothing. -/
theorem mnxtiAccess_read {s : State} {i : CsrAccess} {offer : Option Nat} (h : mnxtiFormOk i = true)
    (hmode : clicMode s = true) (ho : mnxtiOffer s = .ok offer) (hw : i.writes = false) :
    ∃ t, mnxtiAccess s i = .next t ∧ Computed s t i.rd 4#32 fun v => v = offer.elim 0#32 (tableEntry s) := by
  rw [mnxtiAccess_offer h hmode ho, hw]
  exact writeAndRetire_computed rfl

end Sys2Proof.Machine

namespace Sys2Proof
open Machine

/-- Settles O38: by whether the winner is offered, for the immediate forms and the plain reads.  (It stands outside the
model's namespace, where the operation itself has this name.) -/
theorem mnxtiAccess : Obligations.MnxtiAccess := by
  intro s rd uimm hmode
  have hset : CsrOp.set ≠ .write := nofun
  have hclear : CsrOp.clear ≠ .write := nofun
  obtain ⟨b1, b2, b3, b4, hsi, hci, hs, hc⟩ := mnxti_forms s rd uimm
  rw [hsi, hci, hs, hc]
  refine ⟨fun h => ?none, fun w hw hn hvec hlevel hmtvt => ?some⟩
  case none =>
    have ho := mnxtiOffer_none h
    exact ⟨(mnxtiAccess_immediate_none hmode ho hset rd uimm b1).memory_first,
      (mnxtiAccess_immediate_none hmode ho hclear rd uimm b2).memory_first,
      mnxtiAccess_read rfl hmode ho rfl, mnxtiAccess_read rfl hmode ho rfl⟩
  case some =>
    have ho := mnxtiOffer_some hw hn hvec hlevel hmtvt
    rw [← tableEntry_of_aligned hmtvt]
    exact ⟨(mnxtiAccess_immediate_some hmode ho hset rd uimm b1).memory_first,
      (mnxtiAccess_immediate_some hmode ho hclear rd uimm b2).memory_first,
      mnxtiAccess_read rfl hmode ho rfl, mnxtiAccess_read rfl hmode ho rfl⟩

end Sys2Proof
end

section
/-! SUPPORT. The trigger CSRs: what a program may write to `tselect`, `tdata1` and `tdata2`, and what reads back
(spec/62_debug.md section 1; spec/10_state.md section 5.8). -/

namespace Sys2Proof.Machine

/-! ## The image of `tdata1` (10 R101) -/

/-- The fields of `mcontrol`, the type in bit 29, and maskmax in bit 23. -/
theorem getLsbD_mcontrolRead (t : Trigger) {k : Nat} (hk : k < 32) : (mcontrolRead t).getLsbD k =
    if k = 0 then t.r else if k = 1 then t.w else if k = 2 then t.x else if k = 3 then t.u
    else if k = 4 then t.sv else if k = 6 then t.m else if k = 7 then t.matchType.getLsbD 0
    else if k = 8 then t.matchType.getLsbD 1 else if k = 11 then t.chain else if k = 12 then t.actionDebug
    else if k = 27 then t.dmode else decide (k = 23 ∨ k = 29) := by
  unfold mcontrolRead
  simp only [BitVec.getLsbD_append]
  interval_cases k <;> simp

/-- A `match` up to 3 is held. -/
theorem mcontrolWrite_matchType {s : State} {t : Trigger} {v : Word} (h : v.extractLsb' 9 2 = 0#2) {j : Nat}
    (hj : j < 2) : (mcontrolWrite s t v).matchType.getLsbD j = v.getLsbD (7 + j) := by
  have hm : (mcontrolWrite s t v).matchType = v.extractLsb' 7 2 := if_pos h
  rw [hm, BitVec.getLsbD_extractLsb', decide_eq_true hj, Bool.true_and]

/-- What reads back of a word written with `action` and `dmode` 0. -/
theorem getLsbD_mcontrolRead_mcontrolWrite (s : State) (t : Trigger) {v : Word} (haction : v.getLsbD 12 = false)
    (hdmode : v.getLsbD 27 = false) {k : Nat} (hk : k < 32) (hmatch : ¬ ((k = 7 ∨ k = 8) ∧ v.extractLsb' 9 2 ≠ 0#2)) :
    (mcontrolRead (mcontrolWrite s t v)).getLsbD k =
      if k = 0 ∨ k = 1 ∨ k = 2 ∨ k = 6 ∨ k = 7 ∨ k = 8 ∨ k = 11 then v.getLsbD k
      else if k = 3 then v.getLsbD 3 && Config.mcontrolKeepsU
      else if k = 4 then v.getLsbD 4 && Config.mcontrolKeepsS
      else decide (k = 23 ∨ k = 29) := by
  rw [getLsbD_mcontrolRead _ hk]
  by_cases hfield : k = 7 ∨ k = 8 ∨ k = 12 ∨ k = 27
  · obtain rfl | rfl | rfl | rfl := hfield
    · exact mcontrolWrite_matchType (by simpa using hmatch) (j := 0) (by decide)
    · exact mcontrolWrite_matchType (by simpa using hmatch) (j := 1) (by decide)
    · exact haction
    · exact hdmode
  · interval_cases k <;> simp at hfield <;> rfl

/-! ## The selected trigger (10 R100) -/

theorem setTrigger_get (s : State) (q : Trigger) (j : Fin 4) :
    (setTrigger s q).triggers.get j = if j = s.tselect.toFin then q else s.triggers.get j := by
  have hindex : s.tselect.toNat = j.val ↔ j = s.tselect.toFin := eq_comm.trans Fin.ext_iff.symm
  refine Eq.trans ?_ (if_congr hindex rfl rfl)
  exact Vector.getElem_set s.tselect.isLt j.isLt

theorem selectedTrigger_setTrigger (s : State) (q : Trigger) : selectedTrigger (setTrigger s q) = q :=
  (setTrigger_get s q _).trans (if_pos rfl)

/-! ## The accesses (10 R100 to R102; 43 R320) -/

theorem plainAt_tselect : PlainAt 0x7A0#12 .tselect := by constructor <;> decide

/-- The registers of a trigger that debug mode does not own are accessible. -/
theorem csrCheck_tdata {s : State} {a : BitVec 12} {c : Csr} (h : csrOf a = some c) (hmachine : isDebugOnly c = false)
    (hpresent : c ≠ .unknown) (hdcsr : c ≠ .dcsr) (hwritable : a.extractLsb' 10 2 ≠ 0b11#2)
    (hown : (selectedTrigger s).dmode = false) : csrCheck s a true = .access c := by
  simp [csrCheck, h, hmachine, hpresent, hdcsr, hwritable, hown]

theorem csrCheck_tdata1 {s : State} (h : (selectedTrigger s).dmode = false) :
    csrCheck s 0x7A1#12 true = .access .tdata1 :=
  csrCheck_tdata rfl rfl nofun nofun (by decide) h

theorem csrCheck_tdata2 {s : State} (h : (selectedTrigger s).dmode = false) :
    csrCheck s 0x7A2#12 true = .access .tdata2 :=
  csrCheck_tdata rfl rfl nofun nofun (by decide) h

/-- CSRRW to `tselect`, of which every value leaves an index of two bits. -/
theorem exec_csrrw_tselect (s : State) (rd rs1 : Reg) :
    CsrCompletes s { s with tselect := if readReg s rs1 < 4#32 then (readReg s rs1).setWidth 2
        else Config.tselectLegal s.boundary } rd (fun u => u.toNat = s.tselect.toNat) (exec (.csrrw rd rs1 0x7A0#12) s) :=
  plainAt_tselect.csrrw rd rs1 rfl rfl rfl rfl (BitVec.toNat_setWidth_of_le (by decide))

/-- CSRRW to a register of the selected trigger that replaces it by `q`. -/
theorem exec_csrrw_trigger {s : State} {a : BitVec 12} {c : Csr} {q : Trigger} (rd rs1 : Reg)
    (hc : csrCheck s a true = .access c) (hm : c ≠ .mnxti) (hcause : c ≠ .mcause) (hcount : isMinstret c = false)
    (hu : csrWrite s (readReg s rs1) c = .ok (setTrigger s q)) :
    CsrCompletes s (setTrigger s q) rd (fun u => u = csrRead s c) (exec (.csrrw rd rs1 a) s) := by
  rw [exec_csrrw]
  exact csrInstruction_completes_of_check hc hm hcount ((csrUpdate_other fun h => hcause h.1).trans hu) rfl rfl rfl rfl

/-! ## `tdata1` (62 R556, R558) -/

/-- `action` is 0 exactly if its upper bits and its lowest are. -/
theorem action_zero_iff (v : Word) :
    v.extractLsb' 12 4 = 0#4 ↔ v.extractLsb' 13 3 = 0#3 ∧ v.getLsbD 12 = false := by
  have hsplit : v.extractLsb' 13 3 ++ v.extractLsb' 12 1 = v.extractLsb' 12 4 := extract_append_extract v 3 rfl
  have hbit : v.extractLsb' 12 1 = 0#1 ↔ v.getLsbD 12 = false := by
    refine ⟨fun h => getLsbD_eq_of_extract (b := false) h, fun h => BitVec.eq_of_getLsbD_eq fun k hk => ?_⟩
    rw [BitVec.getLsbD_extractLsb', Nat.lt_one_iff.mp hk, h, Bool.and_false, BitVec.getLsbD_zero]
  rw [← hsplit, ← hbit]
  exact append_eq_zero _ _

/-- The guard of a write outside debug mode. -/
theorem tdata1_guard_iff {s : State} (hmode : s.debugMode = false) (v : Word) :
    (v.extractLsb' 13 3 ≠ 0#3 ∨ (!s.debugMode && (v.getLsbD 12 || v.getLsbD 27)) = true) ↔
      (v.extractLsb' 12 4 ≠ 0#4 ∨ v.getLsbD 27 = true) := by
  rw [Ne.eq_def (v.extractLsb' 12 4), action_zero_iff, hmode]
  generalize v.getLsbD 12 = low
  generalize v.getLsbD 27 = dmode
  cases low <;> simp

theorem not_tdata1_guard {s : State} {v : Word} (hmode : s.debugMode = false) (haction : v.extractLsb' 12 4 = 0#4)
    (hdmode : v.getLsbD 27 = false) :
    ¬ (v.extractLsb' 13 3 ≠ 0#3 ∨ (!s.debugMode && (v.getLsbD 12 || v.getLsbD 27)) = true) := by
  rw [tdata1_guard_iff hmode, hdmode]
  exact fun h => h.elim (absurd haction) nofun

theorem tdata1Write_ok {s : State} {v : Word} (hmode : s.debugMode = false) (haction : v.extractLsb' 12 4 = 0#4)
    (hdmode : v.getLsbD 27 = false) (hlast : ¬ (s.tselect = 3#2 ∧ v.getLsbD 11 = true)) :
    tdata1Write s v = .ok (setTrigger s (mcontrolWrite s (selectedTrigger s) v)) :=
  (if_neg (not_tdata1_guard hmode haction hdmode)).trans (if_neg hlast)

theorem tdata1Write_refused {s : State} {v : Word} (hmode : s.debugMode = false)
    (h : v.extractLsb' 12 4 ≠ 0#4 ∨ v.getLsbD 27 = true) : tdata1Write s v = .error .triggerActionOrDmodeWrite :=
  if_pos ((tdata1_guard_iff hmode v).mpr h)

theorem tdata1Write_last {s : State} {v : Word} (hmode : s.debugMode = false) (haction : v.extractLsb' 12 4 = 0#4)
    (hdmode : v.getLsbD 27 = false) (hlast : s.tselect = 3#2) (hchain : v.getLsbD 11 = true) :
    tdata1Write s v = .error .triggerChainLast :=
  (if_neg (not_tdata1_guard hmode haction hdmode)).trans (if_pos ⟨hlast, hchain⟩)

/-- CSRRW to `tdata1` whose write has no meaning. -/
theorem exec_csrrw_tdata1_refused {s : State} {rd rs1 : Reg} {r : Refusal} (h : (selectedTrigger s).dmode = false)
    (hwrite : tdata1Write s (readReg s rs1) = .error r) : exec (.csrrw rd rs1 0x7A1#12) s = .refused r := by
  rw [exec_csrrw]
  refine csrInstruction_refused (c := .tdata1) (csrCheck_tdata1 h) nofun ?_
  exact (csrUpdate_other (c := .tdata1) nofun).trans hwrite

/-- Settles O48: each write by the state it leaves, `tselect` as a plain CSR, and `tdata1` and `tdata2` where debug
mode does not own the trigger. -/
theorem triggerCsrs : Obligations.TriggerCsrs := by
  rintro s rd rs1 _ rfl hmode
  refine ⟨?tselect, fun hown => ⟨?tdata2, fun haction hdmode hlast => ?tdata1, fun h => ?refused,
    fun haction hdmode hlast hchain => ?last⟩⟩
  case tselect =>
    obtain ⟨t, ht, hmem, hrd, he⟩ := (exec_csrrw_tselect s rd rs1).memory_first
    refine ⟨t, ht, hrd, fun hv => ?_, ?_, hmem, by rw [he]⟩
    · rw [he]
      show (if readReg s rs1 < 4#32 then _ else _ : BitVec 2).toNat = _
      rw [if_pos (BitVec.lt_def.mpr hv), BitVec.toNat_setWidth, Nat.mod_eq_of_lt hv]
    · exact (BitVec.toNat_setWidth_of_le (by decide)).trans_lt t.tselect.isLt
  case tdata2 =>
    obtain ⟨t, ht, hmem, hrd, he⟩ := (exec_csrrw_trigger (q := { selectedTrigger s with tdata2 := readReg s rs1 })
      rd rs1 (csrCheck_tdata2 hown) nofun nofun rfl rfl).memory_first
    refine ⟨t, ht, hmem, hrd, fun j => ?_, by rw [he]; rfl⟩
    rw [he]
    refine (setTrigger_get s _ j).trans ?_
    split
    · next hj => rw [hj]; rfl
    · rfl
  case tdata1 =>
    obtain ⟨t, ht, hmem, hrd, he⟩ := (exec_csrrw_trigger rd rs1 (csrCheck_tdata1 hown) nofun nofun rfl
      (tdata1Write_ok hmode haction hdmode hlast)).memory_first
    refine ⟨t, ht, hmem, hrd, fun j hj => ?_, fun k hk hmatch => ?_, by rw [he]; rfl⟩
    · rw [he]
      exact (setTrigger_get s _ j).trans (if_neg hj)
    · have hread : csrRead t .tdata1 = mcontrolRead (mcontrolWrite s (selectedTrigger s) (readReg s rs1)) := by
        rw [he]
        exact congrArg mcontrolRead (selectedTrigger_setTrigger s _)
      rw [hread]
      exact getLsbD_mcontrolRead_mcontrolWrite s _ ((action_zero_iff _).mp haction).2 hdmode hk hmatch
  case refused => exact exec_csrrw_tdata1_refused hown (tdata1Write_refused hmode h)
  case last => exact exec_csrrw_tdata1_refused hown (tdata1Write_last hmode haction hdmode hlast hchain)

end Sys2Proof.Machine
end

section
/-! SUPPORT. Which triggers fire, what the trigger check answers, and the ranges that triggers compare with
(spec/62_debug.md R552 to R556). -/

namespace Sys2Proof.Machine

/-! ## The triggers that fire (62 R555, R556) -/

/-- Does the trigger below position `i` allow it to fire? -/
def LowerAllows (hit : Trigger → Bool) (lower : Bool) (ts : List Trigger) : Nat → Prop
  | 0 => lower = true
  | i + 1 => ∀ u, ts[i]? = some u → u.chain = false ∨ hit u = true

theorem lowerAllows_cons (hit : Trigger → Bool) (lower : Bool) (d : Trigger) (ts : List Trigger) (i : Nat) :
    LowerAllows hit lower (d :: ts) (i + 1) ↔ LowerAllows hit (!d.chain || hit d) ts i := by
  cases i with
  | zero => simp [LowerAllows]
  | succ i => exact Iff.rfl

theorem firing_cons (hit : Trigger → Bool) (lower : Bool) (d : Trigger) (ts : List Trigger) :
    firing hit lower (d :: ts) = if hit d && lower && !d.chain then d :: firing hit (!d.chain || hit d) ts
      else firing hit (!d.chain || hit d) ts := rfl

/-- A trigger fires that matches, is not chained itself, and that its lower neighbour allows. -/
theorem mem_firing {hit : Trigger → Bool} {lower : Bool} {ts : List Trigger} {t : Trigger} :
    t ∈ firing hit lower ts ↔
      ∃ i, ts[i]? = some t ∧ hit t = true ∧ t.chain = false ∧ LowerAllows hit lower ts i := by
  induction ts generalizing lower with
  | nil => simp [firing]
  | cons d ts ih =>
    have hfirst : t ∈ firing hit lower (d :: ts) ↔
        (d = t ∧ hit t = true ∧ t.chain = false ∧ lower = true) ∨ t ∈ firing hit (!d.chain || hit d) ts := by
      rw [firing_cons]
      by_cases hd : (hit d && lower && !d.chain) = true
      · rw [if_pos hd, List.mem_cons]
        simp only [Bool.and_eq_true, Bool.not_eq_true'] at hd
        obtain ⟨⟨hhit, hlower⟩, hchain⟩ := hd
        refine or_congr_left ⟨?_, fun h => h.1.symm⟩
        rintro rfl
        exact ⟨rfl, hhit, hchain, hlower⟩
      · rw [if_neg hd, or_iff_right]
        rintro ⟨rfl, hhit, hchain, hlower⟩
        exact hd (by simp [hhit, hchain, hlower])
    rw [hfirst, ih]
    refine Iff.trans ?_ Nat.or_exists_add_one
    simp only [List.getElem?_cons_zero, List.getElem?_cons_succ, Option.some.injEq, lowerAllows_cons]
    exact Iff.rfl

/-- Does trigger `j` fire when those with `hit` match? -/
def Fires (s : State) (hit : Trigger → Bool) (j : Fin 4) : Prop :=
  hit (s.triggers.get j) = true ∧ (s.triggers.get j).chain = false ∧
    ∀ l : Fin 4, l.val + 1 = j.val → (s.triggers.get l).chain = false ∨ hit (s.triggers.get l) = true

theorem triggers_getElem? {s : State} {i : Nat} {t : Trigger} :
    s.triggers.toList[i]? = some t ↔ ∃ h : i < 4, s.triggers.get ⟨i, h⟩ = t := by
  rw [List.getElem?_eq_some_iff]
  simp [Vector.get]

theorem mem_triggers {s : State} {t : Trigger} : t ∈ s.triggers.toList ↔ ∃ j : Fin 4, s.triggers.get j = t := by
  simp only [List.mem_iff_getElem?, triggers_getElem?, Fin.exists_iff]

theorem lowerAllows_triggers {s : State} {hit : Trigger → Bool} (j : Fin 4) :
    LowerAllows hit true s.triggers.toList j.val ↔
      ∀ l : Fin 4, l.val + 1 = j.val → (s.triggers.get l).chain = false ∨ hit (s.triggers.get l) = true := by
  obtain ⟨i, hi⟩ := j
  cases i with
  | zero => exact iff_of_true rfl nofun
  | succ i =>
    have hlower : i < 4 := Nat.lt_of_succ_lt hi
    constructor
    · intro h l hl
      obtain rfl : l = ⟨i, hlower⟩ := Fin.ext (Nat.succ.inj hl)
      exact h _ (triggers_getElem?.mpr ⟨hlower, rfl⟩)
    · intro h u hu
      obtain ⟨-, rfl⟩ := triggers_getElem?.mp hu
      exact h ⟨i, hlower⟩ rfl

theorem mem_firing_triggers {s : State} {hit : Trigger → Bool} {t : Trigger} :
    t ∈ firing hit true s.triggers.toList ↔ ∃ j, s.triggers.get j = t ∧ Fires s hit j := by
  rw [mem_firing]
  constructor
  · rintro ⟨i, hi, hhit, hchain, hlower⟩
    obtain ⟨hlt, rfl⟩ := triggers_getElem?.mp hi
    exact ⟨⟨i, hlt⟩, rfl, hhit, hchain, (lowerAllows_triggers _).mp hlower⟩
  · rintro ⟨j, rfl, hhit, hchain, hlower⟩
    exact ⟨j.val, triggers_getElem?.mpr ⟨j.isLt, rfl⟩, hhit, hchain, (lowerAllows_triggers j).mpr hlower⟩

theorem firing_eq_nil {s : State} {hit : Trigger → Bool} (h : ∀ j, ¬ Fires s hit j) :
    firing hit true s.triggers.toList = [] := by
  refine List.eq_nil_iff_forall_not_mem.mpr fun t ht => ?_
  obtain ⟨j, -, hj⟩ := mem_firing_triggers.mp ht
  exact h j hj

/-- What matches more makes an unchained trigger fire more. -/
theorem Fires.mono {s : State} {hit hit' : Trigger → Bool} {j : Fin 4} (h : Fires s hit j)
    (hle : ∀ t, hit t = true → hit' t = true) : Fires s hit' j := by
  obtain ⟨hhit, hchain, hlower⟩ := h
  exact ⟨hle _ hhit, hchain, fun l hl => (hlower l hl).imp_right (hle _)⟩

/-! ## What the check answers (62 R552, R554, R555) -/

/-- Does the trigger match the lowest address of the access? -/
def matchesLow (k : AccessKind) (a : Word) (t : Trigger) : Bool := t.enabledFor k && t.hits a

/-- Does the trigger match one of the bytes of the access? -/
def matchesAny (k : AccessKind) (a : Word) (n : Nat) (t : Trigger) : Bool := t.enabledFor k && t.hitsAny a n

theorem firingLow_eq (s : State) (k : AccessKind) (a : Word) :
    firingLow s k a = firing (matchesLow k a) true s.triggers.toList := rfl

theorem firingAny_eq (s : State) (k : AccessKind) (a : Word) (n : Nat) :
    firingAny s k a n = firing (matchesAny k a n) true s.triggers.toList := rfl

theorem enabledFor_of_matchesLow {k : AccessKind} {a : Word} {t : Trigger} (h : matchesLow k a t = true) :
    t.enabledFor k = true := (Bool.and_eq_true_iff.mp h).1

theorem enabledFor_of_matchesAny {k : AccessKind} {a : Word} {n : Nat} {t : Trigger} (h : matchesAny k a n t = true) :
    t.enabledFor k = true := (Bool.and_eq_true_iff.mp h).1

theorem hitsAny_iff {t : Trigger} {a : Word} {n : Nat} :
    t.hitsAny a n = true ↔ ∃ d < n, t.hits (a + BitVec.ofNat 32 d) = true := by
  simp [Trigger.hitsAny]

/-- The lowest byte is one of the bytes. -/
theorem matchesAny_of_matchesLow {k : AccessKind} {a : Word} {n : Nat} (hn : 0 < n) {t : Trigger}
    (h : matchesLow k a t = true) : matchesAny k a n t = true := by
  obtain ⟨henabled, hhits⟩ := Bool.and_eq_true_iff.mp h
  exact Bool.and_eq_true_iff.mpr ⟨henabled, hitsAny_iff.mpr ⟨0, hn, by simpa using hhits⟩⟩

/-- No enabled trigger asks for a NAPOT range. -/
def NoRange (s : State) (k : AccessKind) : Prop :=
  ∀ l : Fin 4, (s.triggers.get l).enabledFor k = true → (s.triggers.get l).matchType ≠ 1#2

theorem any_unsupportedRange_of_noRange {s : State} {k : AccessKind} (h : NoRange s k) :
    s.triggers.toList.any (fun t => t.enabledFor k && t.unsupportedRange) = false := by
  refine List.any_eq_false.mpr fun t ht hrange => ?_
  obtain ⟨l, rfl⟩ := mem_triggers.mp ht
  obtain ⟨henabled, hunsupported⟩ := Bool.and_eq_true_iff.mp hrange
  exact h l henabled (beq_iff_eq.mp (Bool.and_eq_true_iff.mp hunsupported).1)

/-- The answer of the check to the one trigger that fires. -/
def triggerAnswer (s : State) (t : Trigger) (a : Word) : Access Unit :=
  if t.actionDebug then .debug
  else if s.mstatusMie then .raise .breakpoint a
  else .refuse .triggerInHandler

theorem triggerCheck_of_fires {s : State} {k : AccessKind} {a : Word} {j : Fin 4} (hmode : s.debugMode = false)
    (hrange : NoRange s k) (hj : Fires s (matchesLow k a) j) (honly : ∀ l, Fires s (matchesLow k a) l → l = j) (n : Nat) :
    triggerCheck s k a n = triggerAnswer s (s.triggers.get j) a := by
  have hmem : s.triggers.get j ∈ firingLow s k a := mem_firing_triggers.mpr ⟨j, rfl, hj⟩
  have haction : (firingLow s k a).any (·.actionDebug) = (s.triggers.get j).actionDebug := by
    rw [Bool.eq_iff_iff, List.any_eq_true]
    refine ⟨?_, fun h => ⟨_, hmem, h⟩⟩
    rintro ⟨t, ht, hdebug⟩
    obtain ⟨l, rfl, hl⟩ := mem_firing_triggers.mp ht
    rwa [honly l hl] at hdebug
  unfold triggerCheck triggerAnswer
  rw [if_neg (by simp [hmode]), any_unsupportedRange_of_noRange hrange, if_neg Bool.false_ne_true, haction,
    if_pos (List.ne_nil_of_mem hmem)]

theorem triggerCheck_passes {s : State} {k : AccessKind} {a : Word} {n : Nat} (hmode : s.debugMode = false)
    (hrange : NoRange s k) (hlow : ∀ l, ¬ Fires s (matchesLow k a) l) (hany : ∀ l, ¬ Fires s (matchesAny k a n) l) :
    triggerCheck s k a n = .ok () := by
  unfold triggerCheck
  rw [if_neg (by simp [hmode]), any_unsupportedRange_of_noRange hrange, if_neg Bool.false_ne_true, firingLow_eq,
    firing_eq_nil hlow, if_neg (by simp), if_neg (by simp), firingAny_eq, firing_eq_nil hany, if_neg (by simp)]

/-! ## Accesses that the check stops (20 R150 to R152) -/

/-- The outcome of an access that the check stops. -/
def stopped (s : State) (m : Access Unit) : Host.Outcome State Fault Refusal := finish s (m.bind fun _ => .ok s)

theorem loadTo_stopped {s : State} {a len : Word} {w : Size} {ext : Word → Word} {rd : Reg} {m : Access Unit}
    (hm : triggerCheck s .load a w.bytes = m) (hne : m ≠ .ok ()) : loadTo s rd a w ext len = stopped s m := by
  rw [loadTo, memRead, hm]
  cases m with
  | ok u => exact absurd rfl hne
  | raise | debug | refuse => rfl

theorem storeFrom_stopped {s : State} {a v len : Word} {w : Size} {m : Access Unit}
    (hm : triggerCheck s .store a w.bytes = m) (hne : m ≠ .ok ()) : storeFrom s a w v len = stopped s m := by
  rw [storeFrom, memWrite, hm]
  cases m with
  | ok u => exact absurd rfl hne
  | raise | debug | refuse => rfl

theorem fetchAndRun_stopped {s : State} {m : Access Unit} (hm : triggerCheck s .fetch s.pc 2 = m)
    (hne : m ≠ .ok ()) : fetchAndRun s = stopped s m := by
  rw [fetchAndRun, fetch, hm]
  cases m with
  | ok u => exact absurd rfl hne
  | raise | debug | refuse => rfl

/-- A check that stops accesses of a kind at an address stops loads, stores and fetches alike. -/
theorem accesses_stopped {s : State} {k : AccessKind} {a : Word} {m : Access Unit}
    (hm : ∀ n, triggerCheck s k a n = m) (hne : m ≠ .ok ()) {P : Host.Outcome State Fault Refusal → Prop}
    (hP : P (stopped s m)) :
    (∀ i w, k = .load → LoadsFrom s i a w → P (exec i s)) ∧
    (∀ i w, k = .store → StoresTo s i a w → P (exec i s)) ∧ (k = .fetch → a = s.pc → P (fetchAndRun s)) := by
  refine ⟨fun i w hk hload => ?_, fun i w hk hstore => ?_, fun hk ha => ?_⟩
  · subst hk
    obtain ⟨rd, ext, -, hexec⟩ := loadsFrom_ends hload
    rwa [hexec, loadTo_stopped (hm _) hne]
  · subst hk
    obtain ⟨v, hexec⟩ := storesTo_ends hstore
    rwa [hexec, storeFrom_stopped (hm _) hne]
  · subst hk ha
    rwa [fetchAndRun_stopped (hm _) hne]

/-! ## An exact match (62 R553) -/

theorem hits_exact {t : Trigger} (h : t.matchType = 0#2) (a : Word) : t.hits a = (a == t.tdata2) := if_pos h

/-- Settles O45: the trigger is the only one that fires, and its answer is the outcome of the access. -/
theorem triggerBreakpoint : Obligations.TriggerBreakpoint := by
  intro s j k a hmode haligned henabled hexact haddress hchain hothers hlower
  have heq_of_enabled (l : Fin 4) (hl : (s.triggers.get l).enabledFor k = true) : l = j := by_contra fun hne => by
    rw [hothers l hne] at hl
    cases hl
  have hrange : NoRange s k := fun l hl => by rw [heq_of_enabled l hl, hexact]; decide
  have hmatch : matchesLow k a (s.triggers.get j) = true := by
    rw [matchesLow, henabled, hits_exact hexact, haddress, beq_self_eq_true]
    rfl
  have hcheck : ∀ n, triggerCheck s k a n = triggerAnswer s (s.triggers.get j) a :=
    triggerCheck_of_fires hmode hrange ⟨hmatch, hchain, fun l hl => .inl (hlower l hl)⟩
      fun l hl => heq_of_enabled l (enabledFor_of_matchesLow hl.1)
  refine ⟨fun haction hmie => ?exception, fun haction hmie => ?refused, fun haction => ?debug⟩
  case exception =>
    have hanswer : triggerAnswer s (s.triggers.get j) a = .raise .breakpoint a := by simp [triggerAnswer, haction, hmie]
    obtain ⟨hload, hstore, hfetch⟩ := accesses_stopped (fun n => (hcheck n).trans hanswer) nofun
      (P := fun o => ∃ t, o = .next t ∧ ExceptionEntered s t 3#10 a) (takeException_entered haligned .breakpoint a)
    exact ⟨hload, hstore, fun hk ha => by rw [← ha]; exact hfetch hk ha⟩
  case refused =>
    have hanswer : triggerAnswer s (s.triggers.get j) a = .refuse .triggerInHandler := by
      simp [triggerAnswer, haction, hmie]
    exact accesses_stopped (fun n => (hcheck n).trans hanswer) nofun
      (P := fun o => o = .refused .triggerInHandler) rfl
  case debug =>
    have hanswer : triggerAnswer s (s.triggers.get j) a = .debug := if_pos haction
    exact accesses_stopped (fun n => (hcheck n).trans hanswer) nofun
      (P := fun o => ∃ t, o = .next t ∧ DebugEntered s t) ⟨_, rfl, rfl⟩

/-! ## A chained range (62 R553, R555) -/

theorem hits_atLeast {t : Trigger} (h : t.matchType = 2#2) (a : Word) :
    t.hits a = true ↔ t.tdata2.toNat ≤ a.toNat := by
  simp [Trigger.hits, h, BitVec.ule]

theorem hits_below {t : Trigger} (h : t.matchType = 3#2) (a : Word) : t.hits a = true ↔ a.toNat < t.tdata2.toNat := by
  simp [Trigger.hits, h, BitVec.ult]

theorem toNat_add_byte {a : Word} {n d : Nat} (ha : a.toNat + n ≤ 2 ^ 32) (hd : d < n) :
    (a + BitVec.ofNat 32 d).toNat = a.toNat + d := by
  rw [BitVec.toNat_add, BitVec.toNat_ofNat]
  omega

theorem hitsAny_atLeast {t : Trigger} (h : t.matchType = 2#2) {a : Word} {n : Nat} (ha : a.toNat + n ≤ 2 ^ 32)
    (hany : t.hitsAny a n = true) : t.tdata2.toNat < a.toNat + n := by
  obtain ⟨d, hd, hhits⟩ := hitsAny_iff.mp hany
  rw [hits_atLeast h, toNat_add_byte ha hd] at hhits
  omega

theorem hitsAny_below {t : Trigger} (h : t.matchType = 3#2) {a : Word} {n : Nat} (ha : a.toNat + n ≤ 2 ^ 32)
    (hany : t.hitsAny a n = true) : a.toNat < t.tdata2.toNat := by
  obtain ⟨d, hd, hhits⟩ := hitsAny_iff.mp hany
  rw [hits_below h, toNat_add_byte ha hd] at hhits
  omega

/-- Settles O46: of the enabled triggers only the upper one can fire, and it does with the lower one. -/
theorem triggerChainRange : Obligations.TriggerChainRange := by
  rintro s j hj k a n _ _ rfl rfl hmode hmie hlo hhi hatLeast hbelow hchained hunchained haction hn hfits hothers -
  have hlt : j < 4 := Nat.lt_of_succ_lt hj
  have heq_of_enabled (l : Fin 4) (hl : (s.triggers.get l).enabledFor k = true) : l = ⟨j, hlt⟩ ∨ l = ⟨j + 1, hj⟩ := by
    by_contra hne
    obtain ⟨hne0, hne1⟩ := not_or.mp hne
    rw [hothers l (fun e => hne0 (Fin.ext e)) fun e => hne1 (Fin.ext e)] at hl
    cases hl
  have hrange : NoRange s k := fun l hl => by
    obtain rfl | rfl := heq_of_enabled l hl
    · exact fun h => nomatch hatLeast.symm.trans h
    · exact fun h => nomatch hbelow.symm.trans h
  have honly {hit : Trigger → Bool} (henabled : ∀ t, hit t = true → t.enabledFor k = true) (l : Fin 4)
      (hl : Fires s hit l) : l = ⟨j + 1, hj⟩ := by
    refine (heq_of_enabled l (henabled _ hl.1)).resolve_left ?_
    rintro rfl
    exact nomatch hchained.symm.trans hl.2.1
  refine ⟨fun ⟨hge, hless⟩ => ?inside, fun houtside => ?outside⟩
  case inside =>
    have hlower (l : Fin 4) (hl : l.val + 1 = j + 1) : matchesLow k a (s.triggers.get l) = true := by
      obtain rfl : l = ⟨j, hlt⟩ := Fin.ext (Nat.succ.inj hl)
      exact Bool.and_eq_true_iff.mpr ⟨hlo, (hits_atLeast hatLeast a).mpr hge⟩
    have hfires : Fires s (matchesLow k a) ⟨j + 1, hj⟩ :=
      ⟨Bool.and_eq_true_iff.mpr ⟨hhi, (hits_below hbelow a).mpr hless⟩, hunchained, fun l hl => .inr (hlower l hl)⟩
    rw [triggerCheck_of_fires hmode hrange hfires (honly fun _ => enabledFor_of_matchesLow)]
    exact (if_neg (by exact fun h => nomatch haction.symm.trans h)).trans (if_pos hmie)
  case outside =>
    have hany (l : Fin 4) (hl : Fires s (matchesAny k a n) l) : False := by
      obtain rfl := honly (fun _ => enabledFor_of_matchesAny) l hl
      obtain ⟨hupper, -, hlower⟩ := hl
      have hbefore := hitsAny_below hbelow hfits (Bool.and_eq_true_iff.mp hupper).2
      have hallowed := (hlower ⟨j, hlt⟩ rfl).resolve_left fun h => nomatch hchained.symm.trans h
      have hafter := hitsAny_atLeast hatLeast hfits (Bool.and_eq_true_iff.mp hallowed).2
      omega
    exact triggerCheck_passes hmode hrange (fun l hl => hany l (hl.mono fun _ => matchesAny_of_matchesLow hn)) hany

end Sys2Proof.Machine
end

section
/-! SUPPORT. NAPOT ranges: the mask by the four low bits of the match address, the block it leaves, and the ranges that
have no meaning (spec/62_debug.md R554). -/

namespace Sys2Proof.Machine

/-! ## The mask -/

/-- A word by its upper bits and the four that say how large the range is. -/
theorem word_split (v : Word) : v.extractLsb' 4 28 ++ v.extractLsb' 0 4 = v :=
  (extract_append_extract v 28 rfl).trans (extract_self v)

/-- The increment stays within the four low bits unless they are ones. -/
theorem append_add_one_of_ne (hi : BitVec 28) {lo : BitVec 4} (h : lo ≠ 15#4) :
    (hi ++ lo) + 1#32 = hi ++ (lo + 1#4) := by
  have hlo : lo.toNat ≠ 15 := fun e => h (BitVec.eq_of_toNat_eq e)
  have hhi_lt := hi.isLt
  have hlo_lt := lo.isLt
  apply BitVec.eq_of_toNat_eq
  simp only [BitVec.toNat_add, toNat_append_eq_add, BitVec.toNat_ofNat]
  omega

theorem append_ones_add_one (hi : BitVec 28) : (hi ++ 15#4) + 1#32 = (hi + 1#28) ++ 0#4 := by
  have hhi_lt := hi.isLt
  apply BitVec.eq_of_toNat_eq
  simp only [BitVec.toNat_add, toNat_append_eq_add, BitVec.toNat_ofNat]
  omega

theorem napotMask_append_of_ne (hi : BitVec 28) {lo : BitVec 4} (h : lo ≠ 15#4) :
    napotMask (hi ++ lo) = 0#28 ++ (lo ^^^ (lo + 1#4)) := by
  rw [napotMask, append_add_one_of_ne hi h, BitVec.xor_append, BitVec.xor_self]

theorem napotMask_append_ones (hi : BitVec 28) : napotMask (hi ++ 15#4) = (hi ^^^ (hi + 1#28)) ++ 15#4 := by
  rw [napotMask, append_ones_add_one, BitVec.xor_append, BitVec.xor_zero]

/-- The four low bits with `k` trailing ones below a zero. -/
theorem low_mask : ∀ k < 4, ∀ lo : BitVec 4, lo.toNat % 2 ^ (k + 1) = 2 ^ k - 1 →
    lo ≠ 15#4 ∧ ~~~(0#28 ++ (lo ^^^ (lo + 1#4))) = BitVec.allOnes 32 <<< (k + 1) := by decide

theorem toNat_low_mod (v : Word) {k : Nat} (hk : k < 4) :
    (v.extractLsb' 0 4).toNat % 2 ^ (k + 1) = v.toNat % 2 ^ (k + 1) := by
  rw [BitVec.extractLsb'_toNat, Nat.shiftRight_zero]
  exact Nat.mod_mod_of_dvd _ (Nat.pow_dvd_pow 2 hk)

/-- The mask of a range of 2 to 16 bytes, whose complement keeps the bits above the block. -/
theorem napotMask_small {v : Word} {k : Nat} (hk : k < 4) (hv : v.toNat % 2 ^ (k + 1) = 2 ^ k - 1) :
    (napotMask v).toNat ≤ 15 ∧ ~~~napotMask v = BitVec.allOnes 32 <<< (k + 1) := by
  obtain ⟨hne, hmask⟩ := low_mask k hk _ ((toNat_low_mod v hk).trans hv)
  rw [← word_split v, napotMask_append_of_ne _ hne]
  refine ⟨?_, hmask⟩
  rw [toNat_append_eq_add, BitVec.toNat_ofNat, Nat.zero_mod, Nat.zero_mul, Nat.zero_add]
  exact Nat.le_of_lt_succ (BitVec.isLt _)

/-- Four trailing ones or more ask for more than 16 bytes. -/
theorem napotMask_large {v : Word} (hv : v.toNat % 16 = 15) : 15 < (napotMask v).toNat := by
  have hlow : v.extractLsb' 0 4 = 15#4 := by
    apply BitVec.eq_of_toNat_eq
    rw [BitVec.extractLsb'_toNat, Nat.shiftRight_zero]
    exact hv
  have hupper : v.extractLsb' 4 28 ^^^ (v.extractLsb' 4 28 + 1#28) ≠ 0#28 := by
    rw [Ne, BitVec.xor_eq_zero_iff]
    exact fun h => absurd (BitVec.self_eq_add_right.mp h) (by decide)
  have hpos : 0 < (v.extractLsb' 4 28 ^^^ (v.extractLsb' 4 28 + 1#28)).toNat :=
    Nat.pos_of_ne_zero fun h => hupper (BitVec.eq_of_toNat_eq h)
  rw [← word_split v, hlow, napotMask_append_ones, toNat_append_eq_add, BitVec.toNat_ofNat]
  omega

/-! ## The block -/

/-- Two words agree above the `n` low bits exactly if they lie in one aligned block of `2 ^ n`. -/
theorem high_bits_eq_iff (a b : Word) (n : Nat) :
    a &&& BitVec.allOnes 32 <<< n = b &&& BitVec.allOnes 32 <<< n ↔ a.toNat / 2 ^ n = b.toNat / 2 ^ n := by
  have htoNat (v : Word) : (v &&& BitVec.allOnes 32 <<< n).toNat = v.toNat / 2 ^ n * 2 ^ n := by
    rw [← BitVec.shiftLeft_ushiftRight, BitVec.toNat_shiftLeft, BitVec.toNat_ushiftRight, Nat.shiftRight_eq_div_pow,
      Nat.shiftLeft_eq]
    exact Nat.mod_eq_of_lt ((Nat.div_mul_le_self _ _).trans_lt v.isLt)
  rw [BitVec.toNat_eq, htoNat, htoNat]
  exact Nat.mul_left_inj (Nat.two_pow_pos n).ne'

theorem hits_napot {t : Trigger} (h : t.matchType = 1#2) (a : Word) :
    t.hits a = true ↔ a &&& ~~~napotMask t.tdata2 = t.tdata2 &&& ~~~napotMask t.tdata2 := by
  simp [Trigger.hits, h]

theorem unsupportedRange_napot {t : Trigger} (h : t.matchType = 1#2) :
    t.unsupportedRange = true ↔ 15 < (napotMask t.tdata2).toNat := by
  simp [Trigger.unsupportedRange, h, BitVec.ult]

/-- An enabled trigger whose range has no meaning has the access refused. -/
theorem triggerCheck_unsupported {s : State} {j : Fin 4} {k : AccessKind} (hmode : s.debugMode = false)
    (henabled : (s.triggers.get j).enabledFor k = true) (hrange : (s.triggers.get j).unsupportedRange = true) (a : Word)
    (n : Nat) : triggerCheck s k a n = .refuse .napotRange := by
  have hany : s.triggers.toList.any (fun t => t.enabledFor k && t.unsupportedRange) = true :=
    List.any_eq_true.mpr ⟨_, mem_triggers.mpr ⟨j, rfl⟩, Bool.and_eq_true_iff.mpr ⟨henabled, hrange⟩⟩
  exact (if_neg (by simp [hmode])).trans (if_pos hany)

/-- Settles O47: the mask of a small range keeps the bits above the block, that of a larger one exceeds 15. -/
theorem napotRanges : Obligations.NapotRanges := by
  refine ⟨fun t a k hmatch hk ht => ?small, fun s j kind a n hmode henabled hmatch ht => ?large⟩
  case small =>
    obtain ⟨hle, hmask⟩ := napotMask_small hk ht
    refine ⟨Bool.eq_false_iff.mpr fun h => ?_, ?_⟩
    · exact absurd ((unsupportedRange_napot hmatch).mp h) (Nat.not_lt.mpr hle)
    · rw [hits_napot hmatch, hmask]
      exact high_bits_eq_iff _ _ _
  case large =>
    exact triggerCheck_unsupported hmode henabled ((unsupportedRange_napot hmatch).mpr (napotMask_large ht)) a n

end Sys2Proof.Machine
end
